-- ==== Sys2Proof/Word.lean ====
section
/-!
DEFINITION. The word types of the RFT block (00_scope.md R9, R10).
-/
namespace Sys2Proof

/-- A byte: 8 bits (R9). -/
abbrev Byte := BitVec 8

/-- A `u16`: the checksum field and the ones-complement words (R9, R91). -/
abbrev Half := BitVec 16

/-- A `u32`: command words, sequence numbers and the 32-bit registers (R9, R25). -/
abbrev Word := BitVec 32

/-- A 64-bit value of the command port (`wdata`, `rdata`) or of TIME (R25, R31). -/
abbrev Dword := BitVec 64

/-- An address tag: `ADDR_W` = 48 bits, never interpreted by the block (R6, D18). -/
abbrev AddrTag := BitVec 48

end Sys2Proof
end

