-- ==== Sys2Proof/Config.lean ====
section
/-!
DEFINITION. The build-time parameters of the block (00_scope.md R6), the sizes the spec fixes, and the free values:
what the spec leaves open, as constants without a body.
-/
namespace Sys2Proof

/-- The five byte-addressed memory spaces (20_memory.md R50). -/
inductive Space where
  | pld
  | txp
  | rxp
  | tbuf
  | abuf
deriving DecidableEq, Repr

namespace Config

/-- The build-time parameters the spec leaves to the implementation (R6, U8). State carries one such record and no
step changes it (assumption 3), so that a statement about every state is one about every choice of them. -/
structure Params where
  /-- `RBUF_CAP`: capacity in bytes of PLD, of TXP and of one RXQ entry; 1024 by default, 16 to 4096 (R6, D4). -/
  rbufCap : Nat
  /-- `RXQ_DEPTH`: entries of the receive queue, OPEN, at least 1 (R6, D6). -/
  rxqDepth : Nat
  /-- `ABUF_CAP`: capacity in bytes of ABUF, OPEN, at most 2^32 - 1 (R6, D5). -/
  abufCap : Nat
  /-- `TICK_HZ`: rate of TIME, OPEN; no rule reads it (R6, D8). -/
  tickHz : Nat
deriving DecidableEq, Repr

/-- The legal ranges of the parameters (R6). The upper end of `rxqDepth` is DEDUCED from RXCNT's 16 bits (R28,
assumption 4). -/
abbrev Params.Legal (p : Params) : Prop :=
  16 ≤ p.rbufCap ∧ p.rbufCap ≤ 4096 ∧ 1 ≤ p.rxqDepth ∧ p.rxqDepth < 65536 ∧ p.abufCap < 4294967296

/-- The parameters of `State.reset`: `RBUF_CAP` as the spec defaults it (R6); the OPEN ones DESIGN CHOICE, the values
95_test_vectors.md starts its programs with (assumption 3). -/
def defaultParams : Params :=
  { rbufCap := 1024, rxqDepth := 8, abufCap := 1048576, tickHz := 1000 }

/-- `HDR_CS`: header bytes of the checksummed variant (R6). -/
def hdrCs : Nat := 6

/-- `HDR_LG`: header bytes of the legacy variant (R6). -/
def hdrLg : Nat := 4

/-- `PSIZE_RESET`: reset value of PSIZE (R6, R43). -/
def psizeReset : Nat := 64

/-- `PSIZE_LEGACY_REF`: the legacy source's default payload size; informative, no rule reads it (R6). -/
def psizeLegacyRef : Nat := 52

/-- `CTL_MAX`: length of the longest control payload (R6). -/
def ctlMax : Nat := 10

/-- Size of TBUF in bytes (R50). -/
def tbufSize : Nat := 4294967295

/-- FREE VALUE: what a byte reads as that nothing has written (U1, U11): a fixed value per byte until written, and a
new one after each hardware reset, which the first argument counts (assumption 1). -/
opaque unwrittenByte : Nat → Space → Nat → Byte

/-- FREE VALUE: the four bytes that stand in the sequence-number field when the sender iteration frames a number
outside `0 .. 2^32 - 1`, where R12 gives `be32` no value (assumptions 2, 17). -/
opaque seqOutside : Int → Word

end Config
end Sys2Proof
end

