-- ==== Sys2Proof/Syntax.lean ====
section
/-!
DEFINITION. The twenty operations of the command port, one constructor per row of the opcode table (30_encoding.md
R79), and the register names of the register map (10_state.md R28).
-/
namespace Sys2Proof

/-- One operation of the command port (R79). The operand fields are those of the row's format (R71 to R77), as the
command word carries them; the 64-bit operand `wdata` is not part of the word (R78). -/
inductive Instr where
  /-- `NOP` (R164). -/
  | nop
  /-- `SYS.RST` (R165). -/
  | sysRst
  /-- `CFG.WR reg` (R166). -/
  | cfgWr (reg : BitVec 8)
  /-- `CFG.RD reg` (R167). -/
  | cfgRd (reg : BitVec 8)
  /-- `BUF.WRB buf, addr, imm8` (R168). -/
  | bufWrb (buf : BitVec 4) (addr : BitVec 12) (imm8 : Byte)
  /-- `BUF.RDB buf, addr` (R169). -/
  | bufRdb (buf : BitVec 4) (addr : BitVec 12)
  /-- `CS.CLR` (R101). -/
  | csClr
  /-- `CS.PUTB imm8` (R102). -/
  | csPutb (imm8 : Byte)
  /-- `CS.PUTH imm16` (R103). -/
  | csPuth (imm16 : Half)
  /-- `CS.BUF buf` (R104). -/
  | csBuf (buf : BitVec 4)
  /-- `CS.GET` (R105). -/
  | csGet
  /-- `CS.VFY` (R106). -/
  | csVfy
  /-- `FR.ENC` (R121). -/
  | frEnc
  /-- `FR.DEC buf` (R122). -/
  | frDec (buf : BitVec 4)
  /-- `NET.TX` (R123). -/
  | netTx
  /-- `NET.RXPOP` (R124). -/
  | netRxpop
  /-- `SND.START`, its length on `wdata` (R131). -/
  | sndStart
  /-- `SND.STEP` (R132). -/
  | sndStep
  /-- `RCV.START` (R151). -/
  | rcvStart
  /-- `RCV.STEP` (R153). -/
  | rcvStep
deriving DecidableEq, Repr

/-- The registers of the register map, by name (R28). -/
inductive Reg where
  | ctrl | psize | window | rto | kill | dest | seq | plen | txlen
  | status | errcode | errcmd | rxcnt | rxlen | rxsrc
  | dStat | dSeq | dPlen | dPoff | dCsum
  | csAcc | csOdd | time
  | sState | sWstart | sTosend | sLastack | sLastpkt | sWsize | sLen | sRtxt0 | sTdt0
  | rState | rLastrecvd | rAlen | rPeer
deriving DecidableEq, Repr

/-- The access classes of the register map (R28). -/
inductive Access where
  /-- RW: the HOST may write. -/
  | rw
  /-- RO: a write faults RO_REG. -/
  | ro
  /-- W1C: writing 1 to a sticky bit clears it (STATUS). -/
  | w1c
deriving DecidableEq, Repr

end Sys2Proof
end

