-- ==== Sys2Proof/WellFormed.lean ====
section
/-!
DEFINITION. Which operand values an operation may carry: the buffer ids of 30_encoding.md R80 and R81. A register
number and a buffer address are never ill formed (R81): BAD_REG and BAD_ADDR are the operations' own faults.
-/
namespace Sys2Proof

/-- R81 (c), (d), (e): the buffer ids an operation accepts. 0 is PLD, 1 TXP, 2 RXP (R80). -/
def Instr.wellFormed : Instr → Bool
  | .bufWrb buf _ _ => decide (buf.toNat < 2)
  | .bufRdb buf _ => decide (buf.toNat < 3)
  | .csBuf buf => decide (buf.toNat < 3)
  | .frDec buf => decide (buf.toNat = 1 ∨ buf.toNat = 2)
  | .nop | .sysRst | .cfgWr _ | .cfgRd _ | .csClr | .csPutb _ | .csPuth _ | .csGet | .csVfy
  | .frEnc | .netTx | .netRxpop | .sndStart | .sndStep | .rcvStart | .rcvStep => true

end Sys2Proof
end

