-- ==== Sys2Proof/Decode.lean ====
section
/-!
DEFINITION. The command decoder and the encoder (30_encoding.md Part 2). A command is one 32-bit word (R70); the decoder
is total and rejects by name what matches no row of the opcode map (R79, R81 (a) and (b)).
-/
namespace Sys2Proof

/-- Why a command word matches no row (R81). The machine answers either with the fault ILLEGAL_CMD (R172). -/
inductive Reject where
  /-- R81 (a): `cmd[31:24]` is none of the twenty opcodes. -/
  | undefinedOpcode
  /-- R81 (b): a bit the row's format marks 0 is 1. -/
  | reservedBits
deriving DecidableEq, Repr

/-- What the decoder answers: an operation, or why there is none. -/
inductive Decoded where
  | instr (i : Instr)
  | reject (r : Reject)
deriving DecidableEq, Repr

/-- `w[hi:lo]` as an unsigned integer (R10). -/
def bits (w : Word) (hi lo : Nat) : Nat :=
  w.toNat / 2 ^ lo % 2 ^ (hi + 1 - lo)

/-- The operation `i` if the must-be-zero bits, taken as the number `z`, are 0. -/
def mustBeZero (z : Nat) (i : Instr) : Decoded :=
  if z = 0 then .instr i else .reject .reservedBits

/-- The command decoder (R70 to R79). The rows are selected by `cmd[31:24]` and the must-be-zero bits of the row's
format; a buffer id is passed on as it stands and refused by the operation it reaches (R81 (c) to (e), R168, R169,
assumption 5). -/
def decode (w : Word) : Decoded :=
  match bits w 31 24 with
  | 0x00 => mustBeZero (bits w 23 0) .nop
  | 0x01 => mustBeZero (bits w 23 0) .sysRst
  | 0x02 => mustBeZero (bits w 23 8) (.cfgWr (BitVec.ofNat 8 (bits w 7 0)))
  | 0x03 => mustBeZero (bits w 23 8) (.cfgRd (BitVec.ofNat 8 (bits w 7 0)))
  | 0x04 =>
    .instr (.bufWrb (BitVec.ofNat 4 (bits w 23 20)) (BitVec.ofNat 12 (bits w 19 8)) (BitVec.ofNat 8 (bits w 7 0)))
  | 0x05 =>
    mustBeZero (bits w 7 0) (.bufRdb (BitVec.ofNat 4 (bits w 23 20)) (BitVec.ofNat 12 (bits w 19 8)))
  | 0x10 => mustBeZero (bits w 23 0) .csClr
  | 0x11 => mustBeZero (bits w 23 8) (.csPutb (BitVec.ofNat 8 (bits w 7 0)))
  | 0x12 => mustBeZero (bits w 23 16) (.csPuth (BitVec.ofNat 16 (bits w 15 0)))
  | 0x13 => mustBeZero (bits w 19 0) (.csBuf (BitVec.ofNat 4 (bits w 23 20)))
  | 0x14 => mustBeZero (bits w 23 0) .csGet
  | 0x15 => mustBeZero (bits w 23 0) .csVfy
  | 0x20 => mustBeZero (bits w 23 0) .frEnc
  | 0x21 => mustBeZero (bits w 19 0) (.frDec (BitVec.ofNat 4 (bits w 23 20)))
  | 0x22 => mustBeZero (bits w 23 0) .netTx
  | 0x23 => mustBeZero (bits w 23 0) .netRxpop
  | 0x30 => mustBeZero (bits w 23 0) .sndStart
  | 0x31 => mustBeZero (bits w 23 0) .sndStep
  | 0x38 => mustBeZero (bits w 23 0) .rcvStart
  | 0x39 => mustBeZero (bits w 23 0) .rcvStep
  | _ => .reject .undefinedOpcode

/-- The opcode of each operation (R79). -/
def opcodeOf : Instr → Nat
  | .nop => 0x00
  | .sysRst => 0x01
  | .cfgWr _ => 0x02
  | .cfgRd _ => 0x03
  | .bufWrb _ _ _ => 0x04
  | .bufRdb _ _ => 0x05
  | .csClr => 0x10
  | .csPutb _ => 0x11
  | .csPuth _ => 0x12
  | .csBuf _ => 0x13
  | .csGet => 0x14
  | .csVfy => 0x15
  | .frEnc => 0x20
  | .frDec _ => 0x21
  | .netTx => 0x22
  | .netRxpop => 0x23
  | .sndStart => 0x30
  | .sndStep => 0x31
  | .rcvStart => 0x38
  | .rcvStep => 0x39

/-- The operand bits 23:0 of each operation, laid out by its format (R71 to R77, R84). -/
def operandBits : Instr → Nat
  | .cfgWr reg => reg.toNat
  | .cfgRd reg => reg.toNat
  | .bufWrb buf addr imm8 => buf.toNat * 1048576 + addr.toNat * 256 + imm8.toNat
  | .bufRdb buf addr => buf.toNat * 1048576 + addr.toNat * 256
  | .csPutb imm8 => imm8.toNat
  | .csPuth imm16 => imm16.toNat
  | .csBuf buf => buf.toNat * 1048576
  | .frDec buf => buf.toNat * 1048576
  | .nop | .sysRst | .csClr | .csGet | .csVfy | .frEnc | .netTx | .netRxpop
  | .sndStart | .sndStep | .rcvStart | .rcvStep => 0

/-- The command word of an operation (R84). -/
def encode (i : Instr) : Word :=
  BitVec.ofNat 32 (opcodeOf i * 16777216 + operandBits i)

/-- The operation the decoder reads from the table's row word: every command is one 32-bit word (R70), so the bits
above `nbits` are 0 and a word of more than 32 bits is no command. -/
def decodeTableWord (nbits w : Nat) : Option Instr :=
  if w % 2 ^ nbits < 4294967296 then
    match decode (BitVec.ofNat 32 (w % 2 ^ nbits)) with
    | .instr i => some i
    | .reject _ => none
  else none

end Sys2Proof
end

