-- ==== Sys2Proof/Machine/State.lean ====
section
/-!
DEFINITION. The state of the block, as plain data, in the groups of 10_state.md R20, the reasons a step can stop, and
the state after hardware reset (R43).
-/
namespace Sys2Proof.Machine

/-- `to_send`: the next sequence number to transmit, or teardown pending (00_scope.md R14, 10_state.md R33). -/
inductive ToSend where
  | sending (k : Nat)
  | tearingDown
deriving DecidableEq, Repr

/-- D_STAT, and the status of `decode` (10_state.md R23, 41_framer.md R114): 0 OK, 1 BADSUM, 2 RUNT, 3 NONE. -/
inductive DStat where
  | ok
  | badsum
  | runt
  /-- NONE: no decode since reset. -/
  | noDecode
deriving DecidableEq, Repr

/-- The named states of the sender controller, a view of its variables (10_state.md R36). -/
inductive SndState where
  | idle
  | sendingData
  | awaitingFinalAck
  | sendingTeardown
  | awaitingTeardownAck
  | terminated
deriving DecidableEq, Repr

/-- The named states of the receiver controller (10_state.md R40). -/
inductive RcvState where
  | idle
  | receiving
  | terminated
deriving DecidableEq, Repr

/-- The completion statuses an operation can return (30_encoding.md R82). -/
inductive Status where
  | ok
  | empty
  | illegalCmd
  | badReg
  | roReg
  | cfgRange
  | badAddr
  | badState
  | oversize
deriving DecidableEq, Repr

/-- A datagram with its address tag: an RXQ entry with its source (10_state.md R32), or an emitted datagram with its
destination (20_memory.md R62). -/
structure Datagram where
  tag : AddrTag
  bytes : List Byte
deriving DecidableEq, Repr

/-- One step of one agent (00_scope.md R15). A list of them is the interleaving, which the spec leaves free (U10). -/
inductive Event where
  /-- HOST issues one operation: the command word and the 64-bit operand (R25). -/
  | host (cmd : Word) (wdata : Dword)
  /-- TICK (R31). -/
  | tick
  /-- NET-IN delivers one datagram (R60). -/
  | netIn (src : AddrTag) (bytes : List Byte)
  /-- AUTO steps the active session (R186). -/
  | auto
  /-- Hardware reset (R200, U18). -/
  | hwReset
  /-- HOST stores one byte into its own memory TBUF (R54, U17). -/
  | hostStore (addr : Nat) (b : Byte)
deriving DecidableEq, Repr

/-- A byte-addressed memory: address and byte pairs, addresses strictly rising. An address that is not listed is one
nothing has written (assumption 13). -/
abbrev Mem := List Host.Cell

/-- The CSU data registers ACC, ODD, HOLD (10_state.md R21). -/
structure Csu where
  acc : Half
  odd : Bool
  hold : Byte
deriving DecidableEq, Repr

/-- The framer operand registers SEQ, PLEN, TXLEN (10_state.md R22). -/
structure FrOps where
  seq : Word
  plen : Nat
  txlen : Nat
deriving DecidableEq, Repr

/-- The decode result registers D_STAT, D_SEQ, D_PLEN, D_POFF, D_CSUM (10_state.md R23). -/
structure DecRegs where
  stat : DStat
  seq : Word
  plen : Nat
  poff : Nat
  csum : Half
deriving DecidableEq, Repr

/-- The configuration registers CTRL, PSIZE, WINDOW, RTO, KILL, DEST (10_state.md R29). -/
structure CfgRegs where
  ctrl : BitVec 3
  psize : Nat
  window : Word
  rto : Word
  kill : Word
  dest : AddrTag
deriving DecidableEq, Repr

/-- The sticky bits of STATUS, and ERRCODE, ERRCMD (10_state.md R26, R27). The live bits of STATUS are functions of
other state and have no field. -/
structure StatRegs where
  err : Bool
  rxovr : Bool
  rxbig : Bool
  rOvf : Bool
  errcode : BitVec 8
  errcmd : Word
deriving DecidableEq, Repr

/-- The sender session variables (10_state.md R33, R34); numbers are integers as R14 says. -/
structure Snd where
  act : Bool
  term : Bool
  forced : Bool
  tdValid : Bool
  windowStart : Nat
  toSend : ToSend
  lastAck : Int
  lastPacket : Int
  windowSize : Nat
  rtxT0 : Dword
  tdT0 : Dword
  len : Word
deriving DecidableEq, Repr

/-- The receiver session variables (10_state.md R38). -/
structure Rcv where
  act : Bool
  term : Bool
  lastRecvd : Int
  alen : Nat
  peer : AddrTag
deriving DecidableEq, Repr

/-- The command port (10_state.md R25): the operand of the operation being done, and the completion of the last one
the HOST issued. It is the model's, not the block's: no rule reads a past completion (assumption 8). -/
structure Port where
  wdata : Dword
  status : BitVec 8
  rdata : Dword
deriving DecidableEq, Repr

/-- The whole machine: the seven groups of 10_state.md R20, and the model's own fields `port`, `params`, `epoch`,
`sched` and `netOut` (INVENTORY.md, State). -/
structure State where
  csu : Csu
  fr : FrOps
  dec : DecRegs
  cfg : CfgRegs
  stat : StatRegs
  time : Dword
  snd : Snd
  rcv : Rcv
  pld : Mem
  txp : Mem
  rxq : List Datagram
  tbuf : Mem
  abuf : Mem
  port : Port
  params : Config.Params
  /-- How many hardware resets there have been: the argument of the free value of unwritten bytes (assumption 1). -/
  epoch : Nat
  /-- The agents' steps still to come, oldest first (assumption 6). -/
  sched : List Event
  /-- The datagrams the NET-OUT agent has taken, oldest first (R62, assumption 9). -/
  netOut : List Datagram
deriving DecidableEq, Repr

/-- Why the machine stops. The spec's own faults (60_exceptions.md R170) are completions of an operation and are next
states; they are not these. -/
inductive Fault where
  /-- Raised by an access to an address outside its space, which the spec says does not exist (20_memory.md R50): a
  HOST store outside TBUF, or, in states no run from reset reaches, a packet or a length register beyond `RBUF_CAP`.
  Safe: the model stops (assumption 13). -/
  | noSuchAddress (sp : Space)
deriving DecidableEq, Repr

/-- Why an instruction has no meaning. -/
inductive Refusal where
  /-- Raised by an arm of `exec` for an operation that has no meaning yet. Safe: the model stops. No arm raises it. -/
  | notModelled (mnemonic : String)
deriving DecidableEq, Repr

/-- What a step of the block answers. -/
abbrev Outcome := Host.Outcome State Fault Refusal

/-- The CSU registers after either reset (R43). -/
def Csu.reset : Csu := { acc := 0, odd := false, hold := 0 }

/-- SEQ, PLEN, TXLEN after either reset (R43). -/
def FrOps.reset : FrOps := { seq := 0, plen := 0, txlen := 0 }

/-- The decode registers after either reset: D_STAT = 3 (NONE), the others 0 (R43). -/
def DecRegs.reset : DecRegs := { stat := .noDecode, seq := 0, plen := 0, poff := 0, csum := 0 }

/-- The configuration after either reset: CTRL = 3, PSIZE = 64, WINDOW, RTO, KILL, DEST not configured (R43). -/
def CfgRegs.reset : CfgRegs :=
  { ctrl := 3, psize := Config.psizeReset, window := 0, rto := 0, kill := 0, dest := 0 }

/-- STATUS = 0, ERRCODE = ERRCMD = 0 after either reset (R43). -/
def StatRegs.reset : StatRegs :=
  { err := false, rxovr := false, rxbig := false, rOvf := false, errcode := 0, errcmd := 0 }

/-- The sender session variables after either reset (R43). -/
def Snd.reset : Snd :=
  { act := false, term := false, forced := false, tdValid := false, windowStart := 0, toSend := .sending 0,
    lastAck := -1, lastPacket := -1, windowSize := 0, rtxT0 := 0, tdT0 := 0, len := 0 }

/-- The receiver session variables after either reset (R43). -/
def Rcv.reset : Rcv := { act := false, term := false, lastRecvd := -1, alen := 0, peer := 0 }

/-- The command port before any operation: DESIGN CHOICE 0 (assumption 8). -/
def Port.reset : Port := { wdata := 0, status := 0, rdata := 0 }

/-- The machine right after hardware reset (R43, R201): nothing is scheduled, nothing has been emitted, and no byte of
any memory has been written. -/
def State.reset : State :=
  { csu := Csu.reset, fr := FrOps.reset, dec := DecRegs.reset, cfg := CfgRegs.reset, stat := StatRegs.reset,
    time := 0, snd := Snd.reset, rcv := Rcv.reset, pld := [], txp := [], rxq := [], tbuf := [], abuf := [],
    port := Port.reset, params := Config.defaultParams, epoch := 0, sched := [], netOut := [] }

end Sys2Proof.Machine
end

