-- ==== Sys2Proof/Machine/Ops.lean ====
section
/-!
DEFINITION. The named operations over memory, the receive queue, the ports and the completion of an operation; and the
taking of a fault, the block's one exception (60_exceptions.md R170).
-/
namespace Sys2Proof.Machine

/-! ## Memories -/

/-- The byte listed at address `a`, if something has written one. -/
def Mem.read? : Mem → Nat → Option Byte
  | [], _ => none
  | (k, v) :: m, a => if k = a then some v else Mem.read? m a

/-- Write one byte, keeping the addresses strictly rising. -/
def Mem.write : Mem → Nat → Byte → Mem
  | [], a, b => [(a, b)]
  | (k, v) :: m, a, b =>
    if a < k then (a, b) :: (k, v) :: m
    else if a = k then (a, b) :: m
    else (k, v) :: Mem.write m a b

/-- Write a byte sequence at `a`, `a + 1`, … (`MemWrite`, 00_scope.md R13). -/
def Mem.writeBytes : Mem → Nat → List Byte → Mem
  | m, _, [] => m
  | m, a, b :: bs => Mem.writeBytes (Mem.write m a b) (a + 1) bs

/-- The canonical form: every address is below `lim`, and addresses strictly rise from `lo`. -/
def Mem.within (lim : Nat) : Nat → Mem → Bool
  | _, [] => true
  | lo, (k, _) :: m => decide (lo ≤ k) && decide (k < lim) && Mem.within lim (k + 1) m

/-- The canonical form of a memory of `lim` bytes: addresses strictly rising and below `lim`. No entry equals what an
unlisted address reads as, since an unlisted address has no written byte at all (assumption 13). -/
def Mem.wf (lim : Nat) (m : Mem) : Bool :=
  Mem.within lim 0 m

/-- The size in bytes of each space (20_memory.md R50). -/
def State.sizeOf (s : State) : Space → Nat
  | .pld | .txp | .rxp => s.params.rbufCap
  | .tbuf => Config.tbufSize
  | .abuf => s.params.abufCap

/-- What an unwritten byte of a space reads as: the free value (U1, U11). PLD and TXP get new ones at each hardware
reset (R201); host memory is not the block's to reset (R43). -/
def State.unwritten (s : State) (sp : Space) (a : Nat) : Byte :=
  match sp with
  | .pld | .txp => Config.unwrittenByte s.epoch sp a
  | .rxp | .tbuf | .abuf => Config.unwrittenByte 0 sp a

/-- The bytes of RXP: the head datagram of RXQ, none when it is empty (20_memory.md R53). -/
def State.rxpBytes (s : State) : List Byte :=
  match s.rxq with
  | [] => []
  | d :: _ => d.bytes

/-- `MemRead` of one byte (00_scope.md R13): the byte last written, else the free value. -/
def State.byteAt (s : State) (sp : Space) (a : Nat) : Byte :=
  match sp with
  | .pld => (Mem.read? s.pld a).getD (s.unwritten .pld a)
  | .txp => (Mem.read? s.txp a).getD (s.unwritten .txp a)
  | .rxp => s.rxpBytes.getD a (s.unwritten .rxp a)
  | .tbuf => (Mem.read? s.tbuf a).getD (s.unwritten .tbuf a)
  | .abuf => (Mem.read? s.abuf a).getD (s.unwritten .abuf a)

/-- `MemRead(space, a, n)`: `n` bytes in increasing address order (00_scope.md R13). -/
def State.memRead (s : State) (sp : Space) (a n : Nat) : List Byte :=
  (List.range n).map (fun i => s.byteAt sp (a + i))

/-- The length register that goes with a packet buffer (30_encoding.md R80); the other spaces have none. -/
def State.bufLen (s : State) : Space → Nat
  | .pld => s.fr.plen
  | .txp => s.fr.txlen
  | .rxp => s.rxpBytes.length
  | .tbuf | .abuf => 0

/-- The valid bytes of a packet buffer (20_memory.md R50): `PLD[0, PLEN)`, `TXP[0, TXLEN)`, `RXP[0, RXLEN)`. A length
beyond the buffer, which no run reaches, is an access to an address that does not exist (assumption 13). -/
def State.bufBytes (s : State) (sp : Space) : Except Fault (List Byte) :=
  if sp = .rxp then .ok s.rxpBytes
  else if s.bufLen sp ≤ s.sizeOf sp then .ok (s.memRead sp 0 (s.bufLen sp))
  else .error (.noSuchAddress sp)

/-- Write a framed packet to `TXP[0, n)` and set TXLEN (20_memory.md R52). A packet longer than TXP, which the checks
before it exclude (60_exceptions.md R178), is an access to an address that does not exist (assumption 13). -/
def State.putTxp (s : State) (p : List Byte) : Except Fault State :=
  if p.length ≤ s.params.rbufCap then
    .ok { s with txp := Mem.writeBytes s.txp 0 p, fr := { s.fr with txlen := p.length } }
  else .error (.noSuchAddress .txp)

/-- HOST stores one byte into TBUF (20_memory.md R54, U17). -/
def State.hostStore (s : State) (a : Nat) (b : Byte) : Except Fault State :=
  if a < Config.tbufSize then .ok { s with tbuf := Mem.write s.tbuf a b }
  else .error (.noSuchAddress .tbuf)

/-! ## The receive queue and the network ports -/

/-- NET-IN delivers one datagram (20_memory.md R60). -/
def State.deliver (s : State) (src : AddrTag) (d : List Byte) : State :=
  if s.params.rbufCap < d.length then { s with stat := { s.stat with rxbig := true } }
  else if s.rxq.length = s.params.rxqDepth then { s with stat := { s.stat with rxovr := true } }
  else { s with rxq := s.rxq ++ [{ tag := src, bytes := d }] }

/-- Remove the head entry of RXQ (20_memory.md R53). -/
def State.popRx (s : State) : State :=
  { s with rxq := s.rxq.tail }

/-- `emit(dst, bytes)`: one datagram leaves on the TX port; NET-OUT takes it in the same step (20_memory.md R62). -/
def State.emit (s : State) (dst : AddrTag) (p : List Byte) : State :=
  { s with netOut := s.netOut ++ [{ tag := dst, bytes := p }] }

/-! ## Completion and faults -/

/-- The completion status codes (30_encoding.md R82). -/
def Status.code : Status → BitVec 8
  | .ok => 0x00
  | .empty => 0x01
  | .illegalCmd => 0x80
  | .badReg => 0x81
  | .roReg => 0x82
  | .cfgRange => 0x83
  | .badAddr => 0x84
  | .badState => 0x85
  | .oversize => 0x86

/-- An operation ends with a completion status and a result (10_state.md R25). -/
def State.complete (s : State) (st : Status) (rdata : Dword) : State :=
  { s with port := { s.port with status := st.code, rdata := rdata } }

/-- TAKING A FAULT, `raise F(cmd)` (60_exceptions.md R170): the status is the fault's code, `rdata` is 0, STATUS.ERR is
set, ERRCODE and ERRCMD latch the code and the command word, and nothing else changes. There is no handler, no saved
context and so no return operation (R170). -/
def State.raise (s : State) (f : Status) (cmd : Word) : State :=
  { s with
    port := { s.port with status := f.code, rdata := 0 }
    stat := { s.stat with err := true, errcode := f.code, errcmd := cmd } }

/-- The operation `i` raises `f`: its own command word is `info` (00_scope.md R13, assumption 5). -/
def raiseFor (f : Status) (i : Instr) (s : State) : Outcome :=
  .next (s.raise f (encode i))

/-- Go on with the value of a memory access, or stop with its fault. -/
def withMem {α : Type} (r : Except Fault α) (k : α → Outcome) : Outcome :=
  match r with
  | .ok a => k a
  | .error f => .fault f

/-! ## Configuration bits and resets -/

/-- CTRL.CSEN: 1 is the checksummed variant (10_state.md R29). -/
def CfgRegs.csen (c : CfgRegs) : Bool := c.ctrl.getLsbD 0

/-- CTRL.KILLEN: the kill time-out is active (10_state.md R29). -/
def CfgRegs.killen (c : CfgRegs) : Bool := c.ctrl.getLsbD 1

/-- CTRL.AUTO: the AUTO agent steps an active session (10_state.md R29). -/
def CfgRegs.auto (c : CfgRegs) : Bool := c.ctrl.getLsbD 2

/-- Either session is active: the condition of the configuration lock and of BAD_STATE at START (10_state.md R30, R41). -/
def State.sessionActive (s : State) : Bool := s.snd.act || s.rcv.act

/-- `SYS.RST` (44_system.md R165): every register, flag, session variable and RXQ at its reset value of 10_state.md
R43, except TIME and the bytes of PLD and TXP; host memory is not the block's to reset. -/
def State.softReset (s : State) : State :=
  { s with
    csu := Csu.reset, fr := FrOps.reset, dec := DecRegs.reset, cfg := CfgRegs.reset, stat := StatRegs.reset,
    snd := Snd.reset, rcv := Rcv.reset, rxq := [] }

/-- Hardware reset (70_reset_and_hazards.md R200, R201): as `softReset`, and TIME is 0 and the bytes of PLD and TXP are
unspecified again, new free values (assumption 12). -/
def State.hardReset (s : State) : State :=
  { s.softReset with time := 0, pld := [], txp := [], epoch := s.epoch + 1 }

/-- TICK (10_state.md R31): TIME goes up by 1; at 2^64 - 1 the step is a no-op (93_implementation_defined.md U9). -/
def State.tick (s : State) : State :=
  if s.time.toNat = 18446744073709551615 then s else { s with time := s.time + 1 }

end Sys2Proof.Machine
end

