-- ==== Sys2Proof/Machine/Checksum.lean ====
section
/-!
DEFINITION. The checksum function (40_checksum.md Part 1) and its streaming form over the CSU registers (R96).
-/
namespace Sys2Proof.Machine

/-- The 16-bit big-endian words of a byte sequence, an odd last byte padded with a low zero byte (R91). Each is
`hi * 256 + lo`. -/
def wordsOf : List Byte → List Half
  | [] => []
  | [hi] => [BitVec.ofNat 16 (hi.toNat * 256)]
  | hi :: lo :: rest => BitVec.ofNat 16 (hi.toNat * 256 + lo.toNat) :: wordsOf rest

/-- Ones-complement addition: the 17-bit sum with its carry added back in (R92). -/
def ocAdd (a b : Half) : Half :=
  BitVec.ofNat 16 ((a.toNat + b.toNat) % 65536 + (a.toNat + b.toNat) / 65536)

/-- The ones-complement sum of a byte sequence: the left fold of `ocAdd` over its words from 0 (R93). -/
def ocSum (bs : List Byte) : Half :=
  (wordsOf bs).foldl ocAdd 0

/-- The checksum: `0xFFFF - oc_sum` (R95). -/
def checksum (bs : List Byte) : Half :=
  0xFFFF - ocSum bs

/-- `put(b)` of the streaming form (R96). -/
def Csu.put (c : Csu) (b : Byte) : Csu :=
  if c.odd then
    { acc := ocAdd c.acc (BitVec.ofNat 16 (c.hold.toNat * 256 + b.toNat)), odd := false, hold := 0 }
  else { c with hold := b, odd := true }

/-- `put` of every byte of a sequence in order. -/
def Csu.putAll (c : Csu) (bs : List Byte) : Csu :=
  bs.foldl Csu.put c

/-- `sum_now()`: the sum so far, a waiting byte padded in the result only (R96). -/
def Csu.sumNow (c : Csu) : Half :=
  if c.odd then ocAdd c.acc (BitVec.ofNat 16 (c.hold.toNat * 256)) else c.acc

/-- `get()`: the checksum of what has been absorbed (R96). -/
def Csu.get (c : Csu) : Half :=
  0xFFFF - c.sumNow

end Sys2Proof.Machine
end

