-- ==== Sys2Proof/Machine/Codec.lean ====
section
/-!
DEFINITION. The wire format and the packet codec as functions of byte sequences (30_encoding.md Part 1, 41_framer.md
Part 1).
-/
namespace Sys2Proof.Machine

/-- `be16(v)` (00_scope.md R12). -/
def be16 (v : Half) : List Byte :=
  [BitVec.ofNat 8 (v.toNat / 256), BitVec.ofNat 8 v.toNat]

/-- `be32(v)` (00_scope.md R12). -/
def be32 (v : Word) : List Byte :=
  [BitVec.ofNat 8 (v.toNat / 16777216), BitVec.ofNat 8 (v.toNat / 65536), BitVec.ofNat 8 (v.toNat / 256),
    BitVec.ofNat 8 v.toNat]

/-- `from_be(s)`: the number a byte sequence spells, most significant byte first (00_scope.md R12). -/
def fromBe (bs : List Byte) : Nat :=
  bs.foldl (fun n b => n * 256 + b.toNat) 0

/-- `CTL_ACK`, `RDTAck.` (30_encoding.md R68). -/
def ctlAck : List Byte := [0x52, 0x44, 0x54, 0x41, 0x63, 0x6B, 0x2E]

/-- `CTL_END`, `RDTEnd.` (30_encoding.md R68). -/
def ctlEnd : List Byte := [0x52, 0x44, 0x54, 0x45, 0x6E, 0x64, 0x2E]

/-- `CTL_ENDACK`, `RDTEndAck.` (30_encoding.md R68). -/
def ctlEndAck : List Byte := [0x52, 0x44, 0x54, 0x45, 0x6E, 0x64, 0x41, 0x63, 0x6B, 0x2E]

/-- `is_ctl(payload, C)`: exact equality of the whole payload (41_framer.md R120). -/
def isCtl (payload c : List Byte) : Bool :=
  decide (payload = c)

/-- Header size: 6 checksummed, 4 legacy (41_framer.md R111). -/
def hdr (cs : Bool) : Nat :=
  if cs then Config.hdrCs else Config.hdrLg

/-- `encode(seq, payload, cs)` (41_framer.md R112). -/
def encodePkt (seq : Word) (payload : List Byte) (cs : Bool) : List Byte :=
  if cs then be16 (checksum (be32 seq ++ payload)) ++ (be32 seq ++ payload) else be32 seq ++ payload

/-- What `decode` returns (41_framer.md R114). -/
structure Packet where
  status : DStat
  seq : Word
  payload : List Byte
  carried : Half
deriving DecidableEq, Repr

/-- `decode(d, cs)` (41_framer.md R114). `valid` is a comparison with the recomputed checksum, not the residue test
(R115); a datagram shorter than the header is RUNT (R116). -/
def decodePkt (d : List Byte) (cs : Bool) : Packet :=
  if d.length < hdr cs then { status := .runt, seq := 0, payload := [], carried := 0 }
  else if cs then
    { status := if BitVec.ofNat 16 (fromBe (d.take 2)) = checksum (d.drop 2) then .ok else .badsum
      seq := BitVec.ofNat 32 (fromBe ((d.drop 2).take 4))
      payload := d.drop 6
      carried := BitVec.ofNat 16 (fromBe (d.take 2)) }
  else
    { status := .ok, seq := BitVec.ofNat 32 (fromBe (d.take 4)), payload := d.drop 4, carried := 0 }

/-- The number of bytes of `slice(B, L, N, k)`: those of `[k*N, min((k+1)*N, L))`, 0 when `k*N >= L` (41_framer.md
R126, 42_sender_arq.md R133). -/
def sliceLen (len n k : Nat) : Nat :=
  if k * n < len then min ((k + 1) * n) len - k * n else 0

/-- The sequence-number field for the packet number `n`: `n` itself as a `u32`, and the free value where `n` is outside
`0 .. 2^32 - 1` and R12 gives `be32` no value (assumption 2). -/
def seqField (n : Int) : Word :=
  if 0 ≤ n ∧ n < 4294967296 then BitVec.ofInt 32 n else Config.seqOutside n

end Sys2Proof.Machine
end

