-- ==== Sys2Proof/Machine/Flags.lean ====
section
/-!
DEFINITION. Every flag and view the spec computes from other state: STATUS (10_state.md R26), S_STATE and R_STATE (R36,
R40), the D_STAT code (R23) and the result word of the STEP operations (30_encoding.md R83).
-/
namespace Sys2Proof.Machine

/-- The D_STAT code (10_state.md R23). -/
def DStat.code : DStat → Nat
  | .ok => 0
  | .badsum => 1
  | .runt => 2
  | .noDecode => 3

/-- S_STATE as a function of the session variables, first match wins (10_state.md R36). -/
def sndStateOf (v : Snd) : SndState :=
  if v.term then .terminated
  else if !v.act then .idle
  else
    match v.toSend with
    | .tearingDown => if v.tdValid then .awaitingTeardownAck else .sendingTeardown
    | .sending _ => if v.lastPacket = -1 then .sendingData else .awaitingFinalAck

/-- The S_STATE value (10_state.md R36). -/
def SndState.code : SndState → Nat
  | .idle => 0
  | .sendingData => 1
  | .awaitingFinalAck => 2
  | .sendingTeardown => 3
  | .awaitingTeardownAck => 4
  | .terminated => 5

/-- R_STATE as a function of the session variables (10_state.md R40). -/
def rcvStateOf (v : Rcv) : RcvState :=
  if v.act then .receiving else if v.term then .terminated else .idle

/-- The R_STATE value (10_state.md R40). -/
def RcvState.code : RcvState → Nat
  | .idle => 0
  | .receiving => 1
  | .terminated => 2

/-- STATUS, bit by bit (10_state.md R26); bits 63:12 read as 0. -/
def statusWord (s : State) : Dword :=
  BitVec.ofNat 64
    (s.stat.err.toNat
      + 2 * (decide (0 < s.rxq.length)).toNat
      + 4 * s.stat.rxovr.toNat
      + 8 * s.stat.rxbig.toNat
      + 16 * s.snd.act.toNat
      + 32 * s.snd.term.toNat
      + 64 * s.snd.forced.toNat
      + 128 * s.snd.tdValid.toNat
      + 256 * s.rcv.act.toNat
      + 512 * s.rcv.term.toNat
      + 1024 * s.stat.rOvf.toNat
      + 2048 * (decide (s.dec.stat = .ok)).toNat)

/-- A write of `v` to STATUS: each sticky bit 0, 2, 3, 10 that `v` has at 1 is cleared; other bits are ignored
(44_system.md R166). -/
def clearSticky (st : StatRegs) (v : Dword) : StatRegs :=
  { st with
    err := st.err && !v.getLsbD 0
    rxovr := st.rxovr && !v.getLsbD 2
    rxbig := st.rxbig && !v.getLsbD 3
    rOvf := st.rOvf && !v.getLsbD 10 }

/-- `rdata` of `SND.STEP` and `RCV.STEP`: TX, RXC, TERM and the state after the step (30_encoding.md R83). -/
def stepResult (tx rxc term : Bool) (st : Nat) : Dword :=
  BitVec.ofNat 64 (tx.toNat + 2 * rxc.toNat + 4 * term.toNat + 256 * st)

end Sys2Proof.Machine
end

