-- ==== Sys2Proof/Machine/Operands.lean ====
section
/-!
DEFINITION. Every operand form: the register map with its read-outs, access classes, locks and legal values
(10_state.md R28 to R30, R35, R39; 44_system.md R166, R167), and the buffer selects (30_encoding.md R80).
-/
namespace Sys2Proof.Machine

/-- The register of a number; none where the map has none (10_state.md R28). -/
def regOf (n : BitVec 8) : Option Reg :=
  match n.toNat with
  | 0x00 => some .ctrl
  | 0x01 => some .psize
  | 0x02 => some .window
  | 0x03 => some .rto
  | 0x04 => some .kill
  | 0x05 => some .dest
  | 0x06 => some .seq
  | 0x07 => some .plen
  | 0x08 => some .txlen
  | 0x10 => some .status
  | 0x11 => some .errcode
  | 0x12 => some .errcmd
  | 0x13 => some .rxcnt
  | 0x14 => some .rxlen
  | 0x15 => some .rxsrc
  | 0x16 => some .dStat
  | 0x17 => some .dSeq
  | 0x18 => some .dPlen
  | 0x19 => some .dPoff
  | 0x1A => some .dCsum
  | 0x1C => some .csAcc
  | 0x1D => some .csOdd
  | 0x1E => some .time
  | 0x20 => some .sState
  | 0x21 => some .sWstart
  | 0x22 => some .sTosend
  | 0x23 => some .sLastack
  | 0x24 => some .sLastpkt
  | 0x25 => some .sWsize
  | 0x26 => some .sLen
  | 0x27 => some .sRtxt0
  | 0x28 => some .sTdt0
  | 0x30 => some .rState
  | 0x31 => some .rLastrecvd
  | 0x32 => some .rAlen
  | 0x33 => some .rPeer
  | _ => none

/-- The access class of a register (10_state.md R28). -/
def accessOf : Reg → Access
  | .ctrl | .psize | .window | .rto | .kill | .dest | .seq | .plen | .txlen => .rw
  | .status => .w1c
  | .errcode | .errcmd | .rxcnt | .rxlen | .rxsrc | .dStat | .dSeq | .dPlen | .dPoff | .dCsum
  | .csAcc | .csOdd | .time | .sState | .sWstart | .sTosend | .sLastack | .sLastpkt | .sWsize | .sLen
  | .sRtxt0 | .sTdt0 | .rState | .rLastrecvd | .rAlen | .rPeer => .ro

/-- The registers the configuration lock covers (10_state.md R28, R30). -/
def lockedReg : Reg → Bool
  | .ctrl | .psize | .window | .rto | .kill | .dest => true
  | _ => false

/-- The legal values of a `CFG.WR` (44_system.md R166). -/
def legalValue (p : Config.Params) (r : Reg) (v : Dword) : Bool :=
  match r with
  | .ctrl => decide (v.toNat < 8)
  | .psize => decide (1 ≤ v.toNat ∧ v.toNat ≤ p.rbufCap - 4)
  | .window | .rto | .kill | .seq => decide (v.toNat < 4294967296)
  | .dest => decide (v.toNat < 281474976710656)
  | .plen | .txlen => decide (v.toNat ≤ p.rbufCap)
  | _ => true

/-- `sext_64(v)` (00_scope.md R13). -/
def sext64 (v : Int) : Dword :=
  BitVec.ofInt 64 v

/-- The read-out of `to_send`: `k`, or all ones for TearingDown (10_state.md R35). -/
def toSendWord : ToSend → Dword
  | .sending k => BitVec.ofNat 64 k
  | .tearingDown => 0xFFFFFFFFFFFFFFFF

/-- The tag of the head datagram; 0 if RXQ is empty (10_state.md R28). -/
def State.rxSrc (s : State) : AddrTag :=
  match s.rxq with
  | [] => 0
  | d :: _ => d.tag

/-- CS_ODD: bit 0 is ODD, bits 15:8 are HOLD if ODD = 1, else 0 (10_state.md R28). -/
def csOddWord (c : Csu) : Dword :=
  if c.odd then BitVec.ofNat 64 (1 + 256 * c.hold.toNat) else 0

/-- The 64-bit read-out of a register (44_system.md R167, 10_state.md R28). RXCNT is read through its 16 bits
(assumption 4). -/
def readReg (s : State) : Reg → Dword
  | .ctrl => s.cfg.ctrl.setWidth 64
  | .psize => BitVec.ofNat 64 s.cfg.psize
  | .window => s.cfg.window.setWidth 64
  | .rto => s.cfg.rto.setWidth 64
  | .kill => s.cfg.kill.setWidth 64
  | .dest => s.cfg.dest.setWidth 64
  | .seq => s.fr.seq.setWidth 64
  | .plen => BitVec.ofNat 64 s.fr.plen
  | .txlen => BitVec.ofNat 64 s.fr.txlen
  | .status => statusWord s
  | .errcode => s.stat.errcode.setWidth 64
  | .errcmd => s.stat.errcmd.setWidth 64
  | .rxcnt => BitVec.ofNat 64 (s.rxq.length % 65536)
  | .rxlen => BitVec.ofNat 64 s.rxpBytes.length
  | .rxsrc => s.rxSrc.setWidth 64
  | .dStat => BitVec.ofNat 64 s.dec.stat.code
  | .dSeq => s.dec.seq.setWidth 64
  | .dPlen => BitVec.ofNat 64 s.dec.plen
  | .dPoff => BitVec.ofNat 64 s.dec.poff
  | .dCsum => s.dec.csum.setWidth 64
  | .csAcc => s.csu.acc.setWidth 64
  | .csOdd => csOddWord s.csu
  | .time => s.time
  | .sState => BitVec.ofNat 64 (sndStateOf s.snd).code
  | .sWstart => BitVec.ofNat 64 s.snd.windowStart
  | .sTosend => toSendWord s.snd.toSend
  | .sLastack => sext64 s.snd.lastAck
  | .sLastpkt => sext64 s.snd.lastPacket
  | .sWsize => BitVec.ofNat 64 s.snd.windowSize
  | .sLen => s.snd.len.setWidth 64
  | .sRtxt0 => s.snd.rtxT0
  | .sTdt0 => s.snd.tdT0
  | .rState => BitVec.ofNat 64 (rcvStateOf s.rcv).code
  | .rLastrecvd => sext64 s.rcv.lastRecvd
  | .rAlen => BitVec.ofNat 64 s.rcv.alen
  | .rPeer => s.rcv.peer.setWidth 64

/-- A legal write of `v` to a writable register: STATUS clears its sticky bits, the others take the value
(44_system.md R166). A read-only register keeps its value; `CFG.WR` never gets here with one (R174). -/
def writeReg (s : State) (r : Reg) (v : Dword) : State :=
  match r with
  | .ctrl => { s with cfg := { s.cfg with ctrl := v.setWidth 3 } }
  | .psize => { s with cfg := { s.cfg with psize := v.toNat } }
  | .window => { s with cfg := { s.cfg with window := v.setWidth 32 } }
  | .rto => { s with cfg := { s.cfg with rto := v.setWidth 32 } }
  | .kill => { s with cfg := { s.cfg with kill := v.setWidth 32 } }
  | .dest => { s with cfg := { s.cfg with dest := v.setWidth 48 } }
  | .seq => { s with fr := { s.fr with seq := v.setWidth 32 } }
  | .plen => { s with fr := { s.fr with plen := v.toNat } }
  | .txlen => { s with fr := { s.fr with txlen := v.toNat } }
  | .status => { s with stat := clearSticky s.stat v }
  | _ => s

/-- The packet buffer a buffer id selects; 3 to 15 are reserved (30_encoding.md R80). -/
def bufOf (b : BitVec 4) : Option Space :=
  match b.toNat with
  | 0 => some .pld
  | 1 => some .txp
  | 2 => some .rxp
  | _ => none

/-- The size check of both START operations: `hdr(CSEN) + max(PSIZE, 10) > RBUF_CAP` (41_framer.md R119). -/
def State.frameTooBig (s : State) : Bool :=
  decide (s.params.rbufCap < hdr s.cfg.csen + max s.cfg.psize Config.ctlMax)

end Sys2Proof.Machine
end

