-- ==== Sys2Proof/Machine/Csu.lean ====
section
/-!
DEFINITION. The checksum unit's operations (40_checksum.md Part 2).
-/
namespace Sys2Proof.Machine

/-- `CS.CLR` (R101). -/
def execCsClr (s : State) : Outcome :=
  .next ({ s with csu := { acc := 0, odd := false, hold := 0 } }.complete .ok 0)

/-- `CS.PUTB imm8` (R102). -/
def execCsPutb (imm8 : Byte) (s : State) : Outcome :=
  .next ({ s with csu := s.csu.put imm8 }.complete .ok 0)

/-- `CS.PUTH imm16` (R103): the high byte first. -/
def execCsPuth (imm16 : Half) (s : State) : Outcome :=
  .next ({ s with csu := s.csu.putAll (be16 imm16) }.complete .ok 0)

/-- `CS.BUF buf` (R104): absorb the valid bytes of a packet buffer. -/
def execCsBuf (buf : BitVec 4) (s : State) : Outcome :=
  match bufOf buf with
  | none => raiseFor .illegalCmd (.csBuf buf) s
  | some sp => withMem (s.bufBytes sp) fun bs => .next ({ s with csu := s.csu.putAll bs }.complete .ok 0)

/-- `CS.GET` (R105): the pad byte is applied in the result only. -/
def execCsGet (s : State) : Outcome :=
  .next (s.complete .ok (s.csu.get.setWidth 64))

/-- `CS.VFY` (R106): the residue test. -/
def execCsVfy (s : State) : Outcome :=
  .next (s.complete .ok (if s.csu.get = 0 then 1 else 0))

end Sys2Proof.Machine
end

