-- ==== Sys2Proof/Machine/Framer.lean ====
section
/-!
DEFINITION. The framer's and the network ports' operations (41_framer.md Part 2).
-/
namespace Sys2Proof.Machine

/-- `FR.ENC` (R121): frame `PLD[0, PLEN)` into TXP. -/
def execFrEnc (s : State) : Outcome :=
  if s.params.rbufCap < hdr s.cfg.csen + s.fr.plen then raiseFor .oversize .frEnc s
  else
    withMem (s.bufBytes .pld) fun payload =>
      withMem (s.putTxp (encodePkt s.fr.seq payload s.cfg.csen)) fun t =>
        .next (t.complete .ok (BitVec.ofNat 64 t.fr.txlen))

/-- The decode registers after decoding `d` (R122): on RUNT all but D_STAT are 0. -/
def decRegsOf (d : List Byte) (cs : Bool) : DecRegs :=
  let p := decodePkt d cs
  if p.status = .runt then { stat := .runt, seq := 0, plen := 0, poff := 0, csum := 0 }
  else { stat := p.status, seq := p.seq, plen := p.payload.length, poff := hdr cs, csum := p.carried }

/-- Deframe the byte sequence `d` into the decode registers (R122). -/
def decodeInto (d : List Byte) (s : State) : Outcome :=
  .next ({ s with dec := decRegsOf d s.cfg.csen }.complete .ok
    (BitVec.ofNat 64 (decRegsOf d s.cfg.csen).stat.code))

/-- `FR.DEC buf` (R122): TXP or the RXQ head; PLD and the reserved ids are illegal (R81). -/
def execFrDec (buf : BitVec 4) (s : State) : Outcome :=
  match bufOf buf with
  | some .txp => withMem (s.bufBytes .txp) fun d => decodeInto d s
  | some .rxp =>
    match s.rxq with
    | [] => .next (s.complete .empty 0)
    | d :: _ => decodeInto d.bytes s
  | _ => raiseFor .illegalCmd (.frDec buf) s

/-- `NET.TX` (R123): send `TXP[0, TXLEN)` to DEST as it stands. -/
def execNetTx (s : State) : Outcome :=
  withMem (s.bufBytes .txp) fun bs => .next ((s.emit s.cfg.dest bs).complete .ok 0)

/-- `NET.RXPOP` (R124): drop the RXQ head. -/
def execNetRxpop (s : State) : Outcome :=
  match s.rxq with
  | [] => .next (s.complete .empty 0)
  | _ :: _ => .next (s.popRx.complete .ok 0)

end Sys2Proof.Machine
end

