-- ==== Sys2Proof/Machine/Sender.lean ====
section
/-!
DEFINITION. The sender ARQ controller (42_sender_arq.md).
-/
namespace Sys2Proof.Machine

/-- The checks of `SND.START` after BAD_STATE, each a cause of CFG_RANGE (R131). -/
def sndConfigBad (s : State) : Bool :=
  decide (s.port.wdata.toNat / 4294967296 ≠ 0)
    || decide (s.cfg.window = 0)
    || decide (s.cfg.rto = 0)
    || (s.cfg.killen && decide (s.cfg.kill.toNat ≤ s.cfg.rto.toNat))
    || s.frameTooBig
    || decide (4294967294 < s.port.wdata.toNat % 4294967296 / s.cfg.psize)

/-- The session variables `SND.START` writes (R131). -/
def sndFresh (s : State) : Snd :=
  { act := true, term := false, forced := false, tdValid := false, windowStart := 0, toSend := .sending 0,
    lastAck := -1, lastPacket := -1, windowSize := s.cfg.window.toNat, rtxT0 := s.time, tdT0 := 0,
    len := BitVec.ofNat 32 s.port.wdata.toNat }

/-- `SND.START length` (R131): create a sender session and flush RXQ. -/
def execSndStart (s : State) : Outcome :=
  if s.sessionActive then raiseFor .badState .sndStart s
  else if sndConfigBad s then raiseFor .cfgRange .sndStart s
  else .next ({ s with snd := sndFresh s, rxq := [] }.complete .ok 0)

/-- The payload of data packet `k` (R133): `slice(TBUF, s_len, PSIZE, k)`, inside `[0, S_LEN)`. -/
def dataPayload (s : State) (k : Nat) : List Byte :=
  s.memRead .tbuf (k * s.cfg.psize) (sliceLen s.snd.len.toNat s.cfg.psize k)

/-- An ACK whose number exceeds `last_ack` (R135): slide the window, restart the timer, and go to teardown if the final
packet is acknowledged. -/
def sndAcked (now : Dword) (seq : Nat) (v : Snd) : Snd :=
  { v with
    windowStart := v.windowStart + ((seq : Int) - v.lastAck).toNat
    lastAck := seq
    rtxT0 := now
    toSend := if (seq : Int) = v.lastPacket then .tearingDown else v.toSend }

/-- The session ends (R136, R139): confirmed, or forced by the kill time-out. -/
def sndEnded (forced : Bool) (v : Snd) : Snd :=
  { v with term := true, act := false, forced := v.forced || forced }

/-- Part 1 of the iteration, the inbound check (R134 to R137), and whether it ends the iteration. -/
def sndInbound (cs : Bool) (now : Dword) (dg : Option (List Byte)) (v : Snd) : Snd × Bool :=
  match dg with
  | none => (v, false)
  | some d =>
    let p := decodePkt d cs
    if p.status = .ok then
      if isCtl p.payload ctlAck && decide (v.lastAck < (p.seq.toNat : Int)) then (sndAcked now p.seq.toNat v, false)
      else if isCtl p.payload ctlEndAck then (sndEnded false v, true)
      else (v, false)
    else (v, false)

/-- Part 2, the retransmit time-out (R138): strict, and only while `to_send` is `Sending`. -/
def sndRetransmit (rto : Word) (now : Dword) (v : Snd) : Snd :=
  match v.toSend with
  | .tearingDown => v
  | .sending _ =>
    if rto.toNat < now.toNat - v.rtxT0.toNat then { v with toSend := .sending v.windowStart, rtxT0 := now } else v

/-- Part 3, whether the kill time-out fires (R139): strict, and only once teardown has been sent. -/
def sndKillDue (c : CfgRegs) (now : Dword) (v : Snd) : Bool :=
  c.killen && v.tdValid && decide (c.kill.toNat < now.toNat - v.tdT0.toNat)

/-- The live window size after the final packet `k` was found (R141): shrunk to the exact remaining distance, never
below zero, never enlarged. -/
def shrunkWindow (k : Nat) (v : Snd) : Nat :=
  if k + 1 < v.windowStart + v.windowSize then k + 1 - v.windowStart else v.windowSize

/-- The session variables after data packet `k` was sent (R140, R141); `short` says its payload was shorter than
PSIZE. DESIGN CHOICE (assumption 17): after an early ACK and a time-out, `k` can be beyond the true final packet and is
recorded as `last_packet` all the same, as R134 writes it, against R34, R37 (c), R148 (a) and R210. -/
def sndSent (k : Nat) (short : Bool) (v : Snd) : Snd :=
  if short then { v with lastPacket := k, windowSize := shrunkWindow k v, toSend := .sending (k + 1) }
  else { v with toSend := .sending (k + 1) }

/-- The session variables after a teardown send (R142): the first one records the teardown time. -/
def sndTornDown (now : Dword) (v : Snd) : Snd :=
  if v.tdValid then v else { v with tdValid := true, tdT0 := now }

/-- Part 4, the send decision (R140 to R143): the new session variables and the packet to emit, if any. DESIGN CHOICE
(assumption 17): while `last_packet` is unknown there is no upper bound on `k`, as R134 writes it; so where an ACK for the
final packet or beyond came before that packet was sent, a time-out makes the sender send the empty packet
`window_start` instead of idling, and an ACK for it starts the teardown, against the words of R148 (a) and R210. -/
def sndSend (s : State) (now : Dword) (v : Snd) : Snd × Option (List Byte) :=
  match v.toSend with
  | .tearingDown => (sndTornDown now v, some (encodePkt (seqField (v.lastPacket + 1)) ctlEnd s.cfg.csen))
  | .sending k =>
    if k < v.windowStart + v.windowSize ∧ (v.lastPacket = -1 ∨ (k : Int) ≤ v.lastPacket) then
      (sndSent k (decide ((dataPayload s k).length < s.cfg.psize)) v,
        some (encodePkt (seqField k) (dataPayload s k) s.cfg.csen))
    else (v, none)

/-- The whole iteration `snd_iter(now, dg)` (R134). `s` gives the configuration, `s_len` and TBUF, which it does not
change; `s.snd` is where it starts. DESIGN CHOICE (assumption 18): a datagram with a bad checksum, or a short one, does not
end the iteration, which can then send (R137), although R182 says TX = 0 of the STEP that meets one. -/
def sndIter (s : State) (now : Dword) (dg : Option (List Byte)) : Snd × Option (List Byte) :=
  let r := sndInbound s.cfg.csen now dg s.snd
  if r.2 then (r.1, none)
  else
    let v := sndRetransmit s.cfg.rto now r.1
    if sndKillDue s.cfg now v then (sndEnded true v, none) else sndSend s now v

/-- Send what an iteration gave, if anything: frame it into TXP and emit it (R132, R153, 20_memory.md R52). -/
def emitFramed (s : State) (dst : AddrTag) (p : List Byte) : Except Fault State :=
  match s.putTxp p with
  | .ok t => .ok (t.emit dst p)
  | .error f => .error f

/-- The state after an iteration gave `r` in `s` (R132): the session variables, and TXP, TXLEN and the TX port if it
gave a packet; the completion says what happened. -/
def sndFinish (rxc : Bool) (r : Snd × Option (List Byte)) (s : State) : Outcome :=
  match r.2 with
  | none =>
    .next ({ s with snd := r.1 }.complete .ok (stepResult false rxc r.1.term (sndStateOf r.1).code))
  | some p =>
    withMem (emitFramed { s with snd := r.1 } s.cfg.dest p) fun t =>
      .next (t.complete .ok (stepResult true rxc r.1.term (sndStateOf r.1).code))

/-- `SND.STEP` (R132): take the head of RXQ if there is one, and run one iteration with one sample of TIME. -/
def execSndStep (s : State) : Outcome :=
  if s.snd.act then
    match s.rxq with
    | [] => sndFinish false (sndIter s s.time none) s
    | d :: _ => sndFinish true (sndIter s s.time (some d.bytes)) s.popRx
  else raiseFor .badState .sndStep s

end Sys2Proof.Machine
end

