-- ==== Sys2Proof/Machine/Receiver.lean ====
section
/-!
DEFINITION. The receiver ARQ controller (43_receiver_arq.md).
-/
namespace Sys2Proof.Machine

/-- The session variables `RCV.START` writes (R151). -/
def rcvFresh : Rcv :=
  { act := true, term := false, lastRecvd := -1, alen := 0, peer := 0 }

/-- `RCV.START` (R151): create a receiver session and flush RXQ; STATUS.R_OVF and the bytes of ABUF stay. -/
def execRcvStart (s : State) : Outcome :=
  if s.sessionActive then raiseFor .badState .rcvStart s
  else if s.frameTooBig then raiseFor .cfgRange .rcvStart s
  else .next ({ s with rcv := rcvFresh, rxq := [] }.complete .ok 0)

/-- An in-order payload is appended to ABUF and counted (R156, 20_memory.md R55). -/
def rcvAppend (payload : List Byte) (s : State) : State :=
  { s with
    abuf := Mem.writeBytes s.abuf s.rcv.alen payload
    rcv := { s.rcv with alen := s.rcv.alen + payload.length, lastRecvd := s.rcv.lastRecvd + 1 } }

/-- What `rcv_iter` does with a datagram of status OK (R152): teardown first, then the in-order test; the packet to
emit, if any. `s.rcv.peer` is already the datagram's tag (R160). -/
def rcvAccept (p : Packet) (s : State) : State × Option (List Byte) :=
  if isCtl p.payload ctlEnd then
    ({ s with rcv := { s.rcv with term := true, act := false } },
      if 0 ≤ s.rcv.lastRecvd then some (encodePkt (seqField s.rcv.lastRecvd) ctlEndAck s.cfg.csen) else none)
  else if (p.seq.toNat : Int) = s.rcv.lastRecvd + 1 then
    if s.params.abufCap < s.rcv.alen + p.payload.length then
      ({ s with stat := { s.stat with rOvf := true } }, none)
    else
      (rcvAppend p.payload s, some (encodePkt (seqField (s.rcv.lastRecvd + 1)) ctlAck s.cfg.csen))
  else (s, none)

/-- The whole iteration `rcv_iter(src, d)` (R152): a datagram whose status is not OK is discarded (R154). -/
def rcvIter (d : Datagram) (s : State) : State × Option (List Byte) :=
  let p := decodePkt d.bytes s.cfg.csen
  if p.status = .ok then rcvAccept p { s with rcv := { s.rcv with peer := d.tag } } else (s, none)

/-- The state after an iteration gave `r` (R153): TXP, TXLEN and the TX port if it gave a packet, sent to `dst`. -/
def rcvFinish (dst : AddrTag) (r : State × Option (List Byte)) : Outcome :=
  match r.2 with
  | none => .next (r.1.complete .ok (stepResult false true r.1.rcv.term (rcvStateOf r.1.rcv).code))
  | some p =>
    withMem (emitFramed r.1 dst p) fun t =>
      .next (t.complete .ok (stepResult true true t.rcv.term (rcvStateOf t.rcv).code))

/-- `RCV.STEP` (R153): consume the head of RXQ and answer its source; EMPTY when there is none. -/
def execRcvStep (s : State) : Outcome :=
  if s.rcv.act then
    match s.rxq with
    | [] => .next (s.complete .empty 0)
    | d :: _ => rcvFinish d.tag (rcvIter d s.popRx)
  else raiseFor .badState .rcvStep s

end Sys2Proof.Machine
end

