-- ==== Sys2Proof/Machine/System.lean ====
section
/-!
DEFINITION. The system operations (44_system.md).
-/
namespace Sys2Proof.Machine

/-- `NOP` (R164). -/
def execNop (s : State) : Outcome :=
  .next (s.complete .ok 0)

/-- `SYS.RST` (R165): legal in every state. -/
def execSysRst (s : State) : Outcome :=
  .next (s.softReset.complete .ok 0)

/-- `CFG.WR reg, value` (R166): the four checks in the order written, then the write. -/
def execCfgWr (reg : BitVec 8) (s : State) : Outcome :=
  match regOf reg with
  | none => raiseFor .badReg (.cfgWr reg) s
  | some r =>
    if accessOf r = .ro then raiseFor .roReg (.cfgWr reg) s
    else if lockedReg r && s.sessionActive then raiseFor .badState (.cfgWr reg) s
    else if !legalValue s.params r s.port.wdata then raiseFor .cfgRange (.cfgWr reg) s
    else .next ((writeReg s r s.port.wdata).complete .ok 0)

/-- `CFG.RD reg` (R167). -/
def execCfgRd (reg : BitVec 8) (s : State) : Outcome :=
  match regOf reg with
  | none => raiseFor .badReg (.cfgRd reg) s
  | some r => .next (s.complete .ok (readReg s r))

/-- `BUF.WRB buf, addr, byte` (R168). -/
def execBufWrb (buf : BitVec 4) (addr : BitVec 12) (imm8 : Byte) (s : State) : Outcome :=
  match bufOf buf with
  | some .pld =>
    if s.params.rbufCap ≤ addr.toNat then raiseFor .badAddr (.bufWrb buf addr imm8) s
    else .next ({ s with pld := Mem.write s.pld addr.toNat imm8 }.complete .ok 0)
  | some .txp =>
    if s.params.rbufCap ≤ addr.toNat then raiseFor .badAddr (.bufWrb buf addr imm8) s
    else .next ({ s with txp := Mem.write s.txp addr.toNat imm8 }.complete .ok 0)
  | _ => raiseFor .illegalCmd (.bufWrb buf addr imm8) s

/-- `BUF.RDB buf, addr` (R169). -/
def execBufRdb (buf : BitVec 4) (addr : BitVec 12) (s : State) : Outcome :=
  match bufOf buf with
  | none => raiseFor .illegalCmd (.bufRdb buf addr) s
  | some .rxp =>
    if s.rxpBytes.length ≤ addr.toNat then raiseFor .badAddr (.bufRdb buf addr) s
    else .next (s.complete .ok ((s.byteAt .rxp addr.toNat).setWidth 64))
  | some sp =>
    if s.params.rbufCap ≤ addr.toNat then raiseFor .badAddr (.bufRdb buf addr) s
    else .next (s.complete .ok ((s.byteAt sp addr.toNat).setWidth 64))

end Sys2Proof.Machine
end

