-- ==== Sys2Proof/Machine/Dispatch.lean ====
section
/-!
DEFINITION. One arm per operation of the opcode map (30_encoding.md R79).
-/
namespace Sys2Proof.Machine

/-- What each operation does. -/
def exec (i : Instr) (s : State) : Host.Outcome State Fault Refusal :=
  match i with
  | .nop => Sys2Proof.Machine.execNop s
  | .sysRst => Sys2Proof.Machine.execSysRst s
  | .cfgWr reg => Sys2Proof.Machine.execCfgWr reg s
  | .cfgRd reg => Sys2Proof.Machine.execCfgRd reg s
  | .bufWrb buf addr imm8 => Sys2Proof.Machine.execBufWrb buf addr imm8 s
  | .bufRdb buf addr => Sys2Proof.Machine.execBufRdb buf addr s
  | .csClr => Sys2Proof.Machine.execCsClr s
  | .csPutb imm8 => Sys2Proof.Machine.execCsPutb imm8 s
  | .csPuth imm16 => Sys2Proof.Machine.execCsPuth imm16 s
  | .csBuf buf => Sys2Proof.Machine.execCsBuf buf s
  | .csGet => Sys2Proof.Machine.execCsGet s
  | .csVfy => Sys2Proof.Machine.execCsVfy s
  | .frEnc => Sys2Proof.Machine.execFrEnc s
  | .frDec buf => Sys2Proof.Machine.execFrDec buf s
  | .netTx => Sys2Proof.Machine.execNetTx s
  | .netRxpop => Sys2Proof.Machine.execNetRxpop s
  | .sndStart => Sys2Proof.Machine.execSndStart s
  | .sndStep => Sys2Proof.Machine.execSndStep s
  | .rcvStart => Sys2Proof.Machine.execRcvStart s
  | .rcvStep => Sys2Proof.Machine.execRcvStep s

end Sys2Proof.Machine
end

