-- ==== Sys2Proof/Machine/Agents.lean ====
section
/-!
DEFINITION. One step of each agent (00_scope.md R15).
-/
namespace Sys2Proof.Machine

/-- HOST issues one operation (10_state.md R25): the command word is decoded and done; a word that is no operation
raises ILLEGAL_CMD before any operation rule is entered (60_exceptions.md R172). -/
def hostOp (cmd : Word) (wdata : Dword) (s : State) : Outcome :=
  match decode cmd with
  | .instr i => exec i { s with port := { s.port with wdata := wdata } }
  | .reject _ => .next ({ s with port := { s.port with wdata := wdata } }.raise .illegalCmd cmd)

/-- An operation of AUTO's: its `status` and `rdata` are discarded, so the HOST's port keeps what it had (60_exceptions.md
R186). -/
def discardCompletion (p : Port) (o : Outcome) : Outcome :=
  match o with
  | .next t => .next { t with port := p }
  | .fault f => .fault f
  | .refused r => .refused r

/-- AUTO's step (60_exceptions.md R186): `SND.STEP` or `RCV.STEP` where it is enabled, nothing where it is not
(assumption 10). -/
def autoStep (s : State) : Outcome :=
  if s.cfg.auto && s.snd.act then discardCompletion s.port (execSndStep s)
  else if s.cfg.auto && s.rcv.act && decide (0 < s.rxq.length) then discardCompletion s.port (execRcvStep s)
  else .next s

/-- One step of one agent, each atomic (20_memory.md R63). -/
def runEvent (e : Event) (s : State) : Outcome :=
  match e with
  | .host cmd wdata => hostOp cmd wdata s
  | .tick => .next s.tick
  | .netIn src d => .next (s.deliver src d)
  | .auto => autoStep s
  | .hwReset => .next s.hardReset
  | .hostStore a b => withMem (s.hostStore a b) fun t => .next t

/-- The HOST is about to issue the command whose word is `w`, numbered as the opcode table numbers it, with `wdata` 0. -/
def State.withCommand (s : State) (nbits w : Nat) : State :=
  { s with sched := .host (BitVec.ofNat 32 (w % 2 ^ nbits)) 0 :: s.sched }

end Sys2Proof.Machine
end

