-- ==== Sys2Proof/Machine/Step.lean ====
section
/-!
DEFINITION. One step of the machine: the next agent of the schedule takes its step (00_scope.md R15, 20_memory.md R63).
-/
namespace Sys2Proof.Machine

/-- One step. With nothing scheduled the block is idle: nothing happens (70_reset_and_hazards.md R202, assumption 6). -/
def step (s : State) : Host.Outcome State Fault Refusal :=
  match s.sched with
  | [] => .next s
  | e :: rest => runEvent e { s with sched := rest }

/-- `s` with the operation whose word is `w` next on the command port: the block fetches no instructions (10_state.md
R24), so this stands for the HOST issuing it (assumption 7). -/
def State.withFetchWord (s : State) (nbits w : Nat) : State :=
  s.withCommand nbits w

end Sys2Proof.Machine
end

