-- ==== Sys2Proof/Machine/Pseudo.lean ====
section
/-!
DEFINITION. The written form's pseudo-operations as the operations they expand to (30_encoding.md R84, R85), each a list
of steps of the HOST. Operands the operation ignores are written as 0 (R84).
-/
namespace Sys2Proof.Machine

/-- The HOST issues `i` with `wdata`. -/
def issue (i : Instr) (wdata : Dword) : Event :=
  .host (encode i) wdata

/-- `CS.PUTS b0 b1 …` (R85). -/
def csPuts (bs : List Byte) : List Event :=
  bs.map fun b => issue (.csPutb b) 0

/-- `BUF.WRB buf, i, s[i]` for each byte from address `a` on (R85). DESIGN CHOICE (assumption 16): R78 gives `BUF.WRB` no
address above 4095, and R85 does not say what a longer sequence expands to; here the address field is `a` modulo 4096, so
that byte 4096 goes to address 0 again. -/
def wrbFrom (buf : BitVec 4) : Nat → List Byte → List Event
  | _, [] => []
  | a, b :: bs => issue (.bufWrb buf (BitVec.ofNat 12 a) b) 0 :: wrbFrom buf (a + 1) bs

/-- `PLD.LOAD b0 b1 …` (R85): register 7 is PLEN. Beyond 4096 bytes the addresses wrap (assumption 16). -/
def pldLoad (bs : List Byte) : List Event :=
  wrbFrom 0 0 bs ++ [issue (.cfgWr 0x07) (BitVec.ofNat 64 bs.length)]

/-- `TXP.LOAD b0 b1 …` (R85): register 8 is TXLEN. Beyond 4096 bytes the addresses wrap (assumption 16). -/
def txpLoad (bs : List Byte) : List Event :=
  wrbFrom 1 0 bs ++ [issue (.cfgWr 0x08) (BitVec.ofNat 64 bs.length)]

/-- `CS.OF buf` (R85). -/
def csOf (buf : BitVec 4) : List Event :=
  [issue .csClr 0, issue (.csBuf buf) 0, issue .csGet 0]

/-- `CLRERR` (R85): register 16 is STATUS. -/
def clrErr : List Event :=
  [issue (.cfgWr 0x10) 1]

end Sys2Proof.Machine
end

