-- ==== Sys2Proof/Safety.lean ====
section
/-!
DEFINITION. What counts as a legal state of the block, in the spec's own terms, and the words statements use for what
an operation changes and leaves.
-/
namespace Sys2Proof.Machine

/-! ## Legal states -/

/-- Every memory is in canonical form and lists nothing outside its space (20_memory.md R50). -/
def State.MemoryOk (s : State) : Prop :=
  Mem.wf s.params.rbufCap s.pld = true ∧ Mem.wf s.params.rbufCap s.txp = true ∧
    Mem.wf Config.tbufSize s.tbuf = true ∧ Mem.wf s.params.abufCap s.abuf = true

/-- The registers with a legal range hold a value in it (10_state.md R22, R23, R29), and HOLD is 0 while no byte waits
(40_checksum.md R96). PSIZE may also hold its reset value 64 (R43), which is above `RBUF_CAP - 4` where `RBUF_CAP` is
below 68 (assumption 3). -/
def State.RegistersOk (s : State) : Prop :=
  (1 ≤ s.cfg.psize ∧ (s.cfg.psize ≤ s.params.rbufCap - 4 ∨ s.cfg.psize = 64)) ∧
    s.fr.plen ≤ s.params.rbufCap ∧ s.fr.txlen ≤ s.params.rbufCap ∧ s.dec.plen ≤ s.params.rbufCap ∧
    (s.dec.poff = 0 ∨ s.dec.poff = 4 ∨ s.dec.poff = 6) ∧
    (s.csu.odd = false → s.csu.hold = 0)

/-- The receive queue is no longer than `RXQ_DEPTH` and no entry is longer than `RBUF_CAP` (10_state.md R32). -/
def State.QueueOk (s : State) : Prop :=
  s.rxq.length ≤ s.params.rxqDepth ∧ ∀ d ∈ s.rxq, d.bytes.length ≤ s.params.rbufCap

/-- At most one session is active (10_state.md R41); an active session was started with a configuration that passed
the START checks (42_sender_arq.md R131, 43_receiver_arq.md R151) and has not terminated. -/
def State.SessionOk (s : State) : Prop :=
  ¬(s.snd.act = true ∧ s.rcv.act = true) ∧
    (s.sessionActive = true → s.frameTooBig = false) ∧
    (s.snd.act = true → s.snd.term = false ∧ s.snd.forced = false ∧ s.cfg.window ≠ 0 ∧ s.cfg.rto ≠ 0 ∧
      (s.cfg.killen = true → s.cfg.rto.toNat < s.cfg.kill.toNat) ∧
      s.snd.len.toNat / s.cfg.psize ≤ 4294967294) ∧
    (s.rcv.act = true → s.rcv.term = false)

/-- The number of the final data packet, `floor(S_LEN / PSIZE)` (41_framer.md R126). -/
def State.finalPacket (s : State) : Nat :=
  s.snd.len.toNat / s.cfg.psize

/-- R37 (c) for an active session whose `last_packet` is known: its payload is shorter than PSIZE, and every slice before it
has length PSIZE. The second part fails in one case only, which R134 reaches (assumption 17): the final packet is
acknowledged, and `last_packet` lies beyond it, among the packets acknowledged or next after them. With it, what holds while
`last_packet` is unknown: no packet beyond the final one is next, and the window is the configured one. -/
def State.LastPacketOk (s : State) : Prop :=
  s.snd.act = true →
    (s.snd.lastPacket ≠ -1 → (dataPayload s s.snd.lastPacket.toNat).length < s.cfg.psize) ∧
      ((∀ j : Nat, (j : Int) < s.snd.lastPacket → (dataPayload s j).length = s.cfg.psize) ∨
        ((s.finalPacket : Int) < s.snd.lastPacket ∧ s.snd.lastPacket ≤ s.snd.lastAck + 1)) ∧
      (s.snd.lastPacket = -1 →
        s.snd.windowSize = s.cfg.window.toNat ∧ ∀ k, s.snd.toSend = .sending k → k ≤ s.finalPacket)

/-- R37 (a), (b), (c), (e), (f) for the sender session variables, (c) as `State.LastPacketOk` says, with what the time
stamps and S_TDT0 hold (60_exceptions.md R183, 10_state.md R28). -/
def State.SenderOk (s : State) : Prop :=
  (s.snd.windowStart : Int) = s.snd.lastAck + 1 ∧ -1 ≤ s.snd.lastAck ∧
    (s.snd.tdValid = true → s.snd.toSend = .tearingDown) ∧
    (s.snd.act = true → s.snd.windowSize ≤ s.cfg.window.toNat) ∧
    s.snd.rtxT0.toNat ≤ s.time.toNat ∧ s.snd.tdT0.toNat ≤ s.time.toNat ∧
    (s.snd.tdValid = false → s.snd.tdT0 = 0) ∧
    s.LastPacketOk

/-- The ranges of the session variables (10_state.md R34, R38). Those of `to_send` and `last_packet` are R34's wherever
`last_ack` is below 2^32 - 2; R134 leaves them by one after a forged ACK of number 2^32 - 2 or 2^32 - 1 (assumption 17). -/
def State.SessionRangesOk (s : State) : Prop :=
  s.snd.lastAck < 4294967296 ∧ -1 ≤ s.snd.lastPacket ∧ (s.snd.lastPacket ≤ 4294967294 ∨ s.snd.lastPacket ≤ s.snd.lastAck + 1) ∧
    s.snd.windowSize < 4294967296 ∧
    (∀ k, s.snd.toSend = .sending k → k ≤ 4294967296 ∨ (k : Int) ≤ s.snd.lastPacket + 1) ∧
    -1 ≤ s.rcv.lastRecvd ∧ s.rcv.lastRecvd < 4294967296 ∧ s.rcv.alen ≤ s.params.abufCap

/-- The rest of R34 and R37 for an active sender session: R34's ranges of `to_send` and `last_packet`, and the second half
of R37 (c), that every slice before packet `last_packet` has length PSIZE; with what keeps them, that nothing from the
final packet on is acknowledged while `last_packet` is unknown. -/
def State.SenderExact (s : State) : Prop :=
  s.snd.act = true →
    (∀ k, s.snd.toSend = .sending k → k ≤ 4294967296) ∧
      s.snd.lastPacket ≤ 4294967294 ∧
      (∀ j : Nat, (j : Int) < s.snd.lastPacket → (dataPayload s j).length = s.cfg.psize) ∧
      (s.snd.lastPacket = -1 → s.snd.lastAck < s.finalPacket)

/-- The head of RXQ is no early ACK: no valid ACK for the final data packet, or for one beyond it, that comes before the
final data packet has been sent. Only a forged ACK is one, or a corrupted one in the legacy variant
(70_reset_and_hazards.md R210, assumption 17). -/
def State.NoEarlyAck (s : State) : Prop :=
  ∀ d ∈ s.rxq.head?, (decodePkt d.bytes s.cfg.csen).status = .ok →
    (decodePkt d.bytes s.cfg.csen).payload = ctlAck → s.snd.lastPacket = -1 →
      (decodePkt d.bytes s.cfg.csen).seq.toNat < s.finalPacket

/-- The block's own state is legal: what holds at reset and every step keeps. -/
def State.Legal (s : State) : Prop :=
  s.params.Legal ∧ s.MemoryOk ∧ s.RegistersOk ∧ s.QueueOk ∧ s.SessionOk ∧ s.SenderOk ∧ s.SessionRangesOk

/-- The next step is not a HOST store to an address TBUF does not have (20_memory.md R50). -/
def State.NextStoreInRange (s : State) : Prop :=
  ∀ a b rest, s.sched = .hostStore a b :: rest → a < Config.tbufSize

/-! ## What an operation changes -/

/-- `s` after an operation completed with status OK and the result `rd`, if it did nothing else (10_state.md R25). -/
def State.done (s : State) (rd : Dword) : State :=
  { s with port := { s.port with status := 0x00, rdata := rd } }

/-- `s` after an operation completed with status EMPTY (60_exceptions.md R179). -/
def State.foundEmpty (s : State) : State :=
  { s with port := { s.port with status := 0x01, rdata := 0 } }

/-- `s` after a fault of the given code by the operation whose command word is `cmd` (60_exceptions.md R170). -/
def State.faulted (s : State) (code : BitVec 8) (cmd : Word) : State :=
  { s with
    port := { s.port with status := code, rdata := 0 }
    stat := { s.stat with err := true, errcode := code, errcmd := cmd } }

/-- `p` stands in `TXP[0, |p|)` of `t`, TXLEN is `|p|`, and the other bytes of TXP and the other framer operands are
those of `s` (20_memory.md R52). -/
def State.FramedInto (s t : State) (p : List Byte) : Prop :=
  (∀ a, a < p.length → t.byteAt .txp a = p.getD a 0) ∧
    (∀ a, p.length ≤ a → t.byteAt .txp a = s.byteAt .txp a) ∧
    t.fr = { s.fr with txlen := p.length }

/-- The CSU registers after `CS.CLR` and the bytes `bs` in order (40_checksum.md R96): ACC is the sum of the complete
words, ODD says whether a byte waits, HOLD is that byte. -/
def Csu.Absorbed (c : Csu) (bs : List Byte) : Prop :=
  c.acc = ocSum (bs.take (2 * (bs.length / 2))) ∧
    c.odd = decide (bs.length % 2 = 1) ∧
    c.hold = if bs.length % 2 = 1 then bs.getLastD 0 else 0

/-- The decode registers as `FR.DEC` leaves them for the datagram `d` (41_framer.md R122, R114): a runt gives zeros, a
checksummed packet its carried fields and the outcome of the comparison, a legacy packet its fields and OK. -/
def DecRegs.Show (r : DecRegs) (d : List Byte) (cs : Bool) : Prop :=
  (d.length < hdr cs → r = { stat := .runt, seq := 0, plen := 0, poff := 0, csum := 0 }) ∧
    (hdr cs ≤ d.length → cs = true →
      r.seq.toNat = fromBe ((d.drop 2).take 4) ∧ r.csum.toNat = fromBe (d.take 2) ∧ r.plen = d.length - 6 ∧
        r.poff = 6 ∧ r.stat = if r.csum = checksum (d.drop 2) then .ok else .badsum) ∧
    (hdr cs ≤ d.length → cs = false →
      r.seq.toNat = fromBe (d.take 4) ∧ r.csum = 0 ∧ r.plen = d.length - 4 ∧ r.poff = 4 ∧ r.stat = .ok)

/-- The plain integer sum of the 16-bit words of a byte sequence (40_checksum.md R91, R94): a byte at an even offset
counts 256 times, one at an odd offset once. -/
def plainSum (bs : List Byte) : Nat :=
  (bs.zipIdx.map fun p => if p.2 % 2 = 0 then p.1.toNat * 256 else p.1.toNat).sum

/-- One bit of a byte sequence inverted: bit `b` of byte `j`. -/
def flipBit (bs : List Byte) (j b : Nat) : List Byte :=
  bs.set j (bs.getD j 0 ^^^ BitVec.ofNat 8 (2 ^ b))

end Sys2Proof.Machine
end

