-- ==== Sys2Proof/Certificates/Slice0/Obligations.lean ====
section
/-!
DEFINITION. The statements for the provers. Each docstring names the rules of spec/ a statement rests on.
-/
open Sys2Proof Sys2Proof.Machine

/-! ## Encoding -/

/-- R70 to R79, R84: the decoder reads every operation, with every operand, back from its command word. -/
def Obligations.DecodeEncodeRoundTrip : Prop :=
  ∀ i : Instr, decode (encode i) = .instr i

/-- R70, R79, R81: a word the decoder accepts is the command word of the operation it reads, so no bit is dropped and
no encoding executes as another. -/
def Obligations.EncodeDecodeRoundTrip : Prop :=
  ∀ (w : Word) (i : Instr), decode w = .instr i → encode i = w

/-- R79: a command `c` selects the row where `c AND mask = match`, and the rows are disjoint. The list is the opcode
map's match and mask columns. -/
def Obligations.DecodeSelectsTheMatchingRow : Prop :=
  ∀ row ∈ ([(0x00000000, 0xFFFFFFFF), (0x01000000, 0xFFFFFFFF), (0x02000000, 0xFFFFFF00), (0x03000000, 0xFFFFFF00),
      (0x04000000, 0xFF000000), (0x05000000, 0xFF0000FF), (0x10000000, 0xFFFFFFFF), (0x11000000, 0xFFFFFF00),
      (0x12000000, 0xFFFF0000), (0x13000000, 0xFF0FFFFF), (0x14000000, 0xFFFFFFFF), (0x15000000, 0xFFFFFFFF),
      (0x20000000, 0xFFFFFFFF), (0x21000000, 0xFF0FFFFF), (0x22000000, 0xFFFFFFFF), (0x23000000, 0xFFFFFFFF),
      (0x30000000, 0xFFFFFFFF), (0x31000000, 0xFFFFFFFF), (0x38000000, 0xFFFFFFFF), (0x39000000, 0xFFFFFFFF)] :
      List (Word × Word)),
    ∀ w : Word, w &&& row.2 = row.1 ↔ ∃ i, decode w = .instr i ∧ opcodeOf i * 16777216 = row.1.toNat

/-- Words the spec writes out, one of every format (R84, R168, R169, R104, P3). -/
def Obligations.DecodeReadsTheSpecsWords : Prop :=
  decode 0x31000000 = .instr .sndStep ∧ decode 0x02000005 = .instr (.cfgWr 0x05) ∧
    decode 0x0300001C = .instr (.cfgRd 0x1C) ∧ decode 0x041005FF = .instr (.bufWrb 1 5 0xFF) ∧
    decode 0x05100900 = .instr (.bufRdb 1 9) ∧ decode 0x11000048 = .instr (.csPutb 0x48) ∧
    decode 0x12004B2E = .instr (.csPuth 0x4B2E) ∧ decode 0x13200000 = .instr (.csBuf 2) ∧
    decode 0x21100000 = .instr (.frDec 1)

/-- R81 (a), (b), R172, R170: a word that is no operation's command word raises ILLEGAL_CMD and changes nothing else.
That commands come off the list `sched`, with their operand kept in `port`, is the model's choice (assumptions 6, 8). -/
def Obligations.UnmatchedCommandRaisesIllegalCmd : Prop :=
  ∀ (s : State) (w : Word) (d : Dword) (rest : List Event),
    s.sched = .host w d :: rest → (∀ i, encode i ≠ w) →
      step s = .next (({ s with sched := rest, port := { s.port with wdata := d } } : State).faulted 0x80 w)

/-! ## The agents' steps -/

/-- R25: an operation on the command port is carried out whole, on the operand that came with it. That it comes off the
list `sched`, with its operand kept in `port`, is the model's choice (assumptions 6, 8). -/
def Obligations.StepRunsTheDecodedOperation : Prop :=
  ∀ (s : State) (w : Word) (d : Dword) (rest : List Event) (i : Instr),
    s.sched = .host w d :: rest → decode w = .instr i →
      step s = exec i { s with sched := rest, port := { s.port with wdata := d } }

/-- R60: NET-IN delivers a datagram, drops it for its length, or drops it for a full queue. -/
def Obligations.NetInDeliversOrDrops : Prop :=
  ∀ (s : State) (src : AddrTag) (d : List Byte) (rest : List Event), s.sched = .netIn src d :: rest →
    (s.params.rbufCap < d.length →
      step s = .next { s with sched := rest, stat := { s.stat with rxbig := true } }) ∧
    (d.length ≤ s.params.rbufCap → s.rxq.length = s.params.rxqDepth →
      step s = .next { s with sched := rest, stat := { s.stat with rxovr := true } }) ∧
    (d.length ≤ s.params.rbufCap → s.rxq.length ≠ s.params.rxqDepth →
      step s = .next { s with sched := rest, rxq := s.rxq ++ [{ tag := src, bytes := d }] })

/-- R31 and U9: TICK adds 1 to TIME and nothing else; at 2^64 - 1 it is a no-op. -/
def Obligations.TickAddsOneToTime : Prop :=
  ∀ (s : State) (rest : List Event), s.sched = .tick :: rest →
    ∃ t, step s = .next t ∧ t = { s with sched := rest, time := t.time } ∧
      t.time.toNat = min (s.time.toNat + 1) 18446744073709551615

/-- R43, R201: the state after hardware reset, from any state. The new free values of PLD and TXP, the schedule, the
parameters and the port are the model's (assumptions 1, 3, 6, 8, 12). -/
def Obligations.HardwareResetGivesTheResetState : Prop :=
  ∀ (s : State) (rest : List Event), s.sched = .hwReset :: rest →
    step s = .next
      { s with
        sched := rest, epoch := s.epoch + 1, time := 0, pld := [], txp := [], rxq := []
        csu := { acc := 0, odd := false, hold := 0 }
        fr := { seq := 0, plen := 0, txlen := 0 }
        dec := { stat := .noDecode, seq := 0, plen := 0, poff := 0, csum := 0 }
        cfg := { ctrl := 3, psize := 64, window := 0, rto := 0, kill := 0, dest := 0 }
        stat := { err := false, rxovr := false, rxbig := false, rOvf := false, errcode := 0, errcmd := 0 }
        snd :=
          { act := false, term := false, forced := false, tdValid := false, windowStart := 0, toSend := .sending 0,
            lastAck := -1, lastPacket := -1, windowSize := 0, rtxT0 := 0, tdT0 := 0, len := 0 }
        rcv := { act := false, term := false, lastRecvd := -1, alen := 0, peer := 0 } }

/-- R186: AUTO performs exactly the STEP of the active session, discarding its completion, where it is enabled. That it
does nothing elsewhere is the model's choice (assumption 10). -/
def Obligations.AutoStepsTheActiveSession : Prop :=
  ∀ (s t : State) (rest : List Event), s.sched = .auto :: rest →
    (s.cfg.ctrl.getLsbD 2 = true → s.snd.act = true → exec .sndStep { s with sched := rest } = .next t →
      step s = .next { t with port := s.port }) ∧
    (s.cfg.ctrl.getLsbD 2 = true → s.snd.act = false → s.rcv.act = true → s.rxq ≠ [] →
      exec .rcvStep { s with sched := rest } = .next t → step s = .next { t with port := s.port }) ∧
    (s.cfg.ctrl.getLsbD 2 = false ∨ (s.snd.act = false ∧ (s.rcv.act = false ∨ s.rxq = [])) →
      step s = .next { s with sched := rest })

/-- R185, R186: an operation issued by AUTO cannot fault: from a legal state AUTO's step completes and leaves
STATUS.ERR, ERRCODE, ERRCMD and the HOST's port as they are. -/
def Obligations.AutoNeverFaults : Prop :=
  ∀ (s : State) (rest : List Event), s.sched = .auto :: rest → s.Legal →
    ∃ t, step s = .next t ∧ t.stat.err = s.stat.err ∧ t.stat.errcode = s.stat.errcode ∧
      t.stat.errcmd = s.stat.errcmd ∧ t.port = s.port

/-! ## The checksum -/

/-- R91, R93, R94: the sum is 0 exactly when the plain sum of the words is, and otherwise the representative in
`1 .. 0xFFFF` of the plain sum modulo 0xFFFF, whenever the carries are folded. -/
def Obligations.OcSumIsPlainSumModuloFfff : Prop :=
  ∀ bs : List Byte,
    (plainSum bs = 0 → ocSum bs = 0) ∧
      (plainSum bs ≠ 0 → 1 ≤ (ocSum bs).toNat ∧ (ocSum bs).toNat % 65535 = plainSum bs % 65535)

/-- R95: the checksum is the complement of the sum, 0xFFFF exactly on all-zero input, 0 exactly where the sum is
0xFFFF. -/
def Obligations.ChecksumIsComplementOfSum : Prop :=
  checksum [] = 0xFFFF ∧
    ∀ bs : List Byte,
      (checksum bs).toNat = 65535 - (ocSum bs).toNat ∧ checksum bs = ~~~(ocSum bs) ∧
        (checksum bs = 0xFFFF ↔ ∀ b ∈ bs, b = 0) ∧ (checksum bs = 0 ↔ ocSum bs = 0xFFFF)

/-- R97 (a) to (e): the laws of ones-complement addition, and the split of a sum at an even offset. -/
def Obligations.OcAddLaws : Prop :=
  (∀ a b : Half, ocAdd a b = ocAdd b a) ∧
    (∀ a b c : Half, ocAdd (ocAdd a b) c = ocAdd a (ocAdd b c)) ∧
    (∀ a : Half, ocAdd a 0 = a) ∧
    (∀ a : Half, a ≠ 0 → ocAdd a 0xFFFF = a) ∧ ocAdd 0 0xFFFF = 0xFFFF ∧
    (∀ a : Half, ocAdd a (0xFFFF - a) = 0xFFFF) ∧
    (∀ bs cs : List Byte, bs.length % 2 = 0 → ocSum (bs ++ cs) = ocAdd (ocSum bs) (ocSum cs))

/-- R98: a packet that carries its checksum in front has residue 0. -/
def Obligations.CarriedChecksumGivesZeroResidue : Prop :=
  ∀ body : List Byte,
    ocSum (be16 (checksum body) ++ body) = 0xFFFF ∧ checksum (be16 (checksum body) ++ body) = 0

/-- R100 (a): every single-bit error in a checksummed packet, header or payload, is detected. -/
def Obligations.SingleBitErrorIsDetected : Prop :=
  ∀ (seq : Word) (payload : List Byte) (j b : Nat),
    j < payload.length + 6 → b < 8 →
      (decodePkt (flipBit (encodePkt seq payload true) j b) true).status = .badsum

/-! ## The packet codec -/

/-- R117: on datagrams of status OK, `encode` and `decode` are mutually inverse. -/
def Obligations.PacketCodecRoundTrip : Prop :=
  (∀ (seq : Word) (payload : List Byte) (cs : Bool),
      decodePkt (encodePkt seq payload cs) cs =
        { status := .ok, seq := seq, payload := payload,
          carried := if cs then checksum (be32 seq ++ payload) else 0 }) ∧
    (∀ (d : List Byte) (cs : Bool), (decodePkt d cs).status = .ok →
      encodePkt (decodePkt d cs).seq (decodePkt d cs).payload cs = d)

/-- R118: comparison is stricter than residue, by exactly one family: field 0xFFFF over a body whose sum is 0xFFFF. -/
def Obligations.ResidueAcceptsOneFamilyMore : Prop :=
  ∀ d : List Byte, 6 ≤ d.length →
    ((decodePkt d true).status = .ok → checksum d = 0) ∧
      (checksum d = 0 ∧ (decodePkt d true).status ≠ .ok ↔
        fromBe (d.take 2) = 65535 ∧ ocSum (d.drop 2) = 0xFFFF)

/-- R126, R133: the payloads of data packets `0 .. floor(L / N)` are a cut of `TBUF[0, L)`: all of length `N` but the
last, which is shorter, and their concatenation is the buffer. -/
def Obligations.DataPacketsCutTheTransferBuffer : Prop :=
  ∀ s : State, 1 ≤ s.cfg.psize →
    (List.range (s.snd.len.toNat / s.cfg.psize + 1)).flatMap (dataPayload s) = s.memRead .tbuf 0 s.snd.len.toNat ∧
      (∀ k, k < s.snd.len.toNat / s.cfg.psize → (dataPayload s k).length = s.cfg.psize) ∧
      (dataPayload s (s.snd.len.toNat / s.cfg.psize)).length = s.snd.len.toNat % s.cfg.psize

/-! ## System operations -/

/-- R164, R165, R43: `NOP` does nothing; `SYS.RST` gives every register, flag, session variable and RXQ its reset value in every state, and
leaves TIME, the bytes of PLD and TXP, and host memory. -/
def Obligations.NopAndSysRst : Prop :=
  ∀ s : State,
    exec .nop s = .next (s.done 0) ∧
    exec .sysRst s = .next
      (({ s with
        rxq := []
        csu := { acc := 0, odd := false, hold := 0 }
        fr := { seq := 0, plen := 0, txlen := 0 }
        dec := { stat := .noDecode, seq := 0, plen := 0, poff := 0, csum := 0 }
        cfg := { ctrl := 3, psize := 64, window := 0, rto := 0, kill := 0, dest := 0 }
        stat := { err := false, rxovr := false, rxbig := false, rOvf := false, errcode := 0, errcmd := 0 }
        snd :=
          { act := false, term := false, forced := false, tdValid := false, windowStart := 0, toSend := .sending 0,
            lastAck := -1, lastPacket := -1, windowSize := 0, rtxT0 := 0, tdT0 := 0, len := 0 }
        rcv := { act := false, term := false, lastRecvd := -1, alen := 0, peer := 0 } } : State).done 0)

/-- R166, R28, R29: a `CFG.WR` of a legal value to one of the registers 0x00 to 0x08, outside a session where the lock
covers it, is read back by `CFG.RD`; every other register reads as before, and nothing but the configuration and the
framer operands is written. -/
def Obligations.CfgWrIsReadBack : Prop :=
  ∀ (s : State) (reg : BitVec 8) (v : Nat), reg.toNat ≤ 8 → v = s.port.wdata.toNat →
    (reg.toNat ≤ 5 → s.snd.act = false ∧ s.rcv.act = false) →
    (reg = 0 → v ≤ 7) → (reg = 1 → 1 ≤ v ∧ v ≤ s.params.rbufCap - 4) →
    (reg = 2 ∨ reg = 3 ∨ reg = 4 ∨ reg = 6 → v ≤ 4294967295) → (reg = 5 → v ≤ 281474976710655) →
    (reg = 7 ∨ reg = 8 → v ≤ s.params.rbufCap) →
      ∃ t, exec (.cfgWr reg) s = .next t ∧ exec (.cfgRd reg) t = .next (t.done s.port.wdata) ∧
        (∀ other r, other ≠ reg → regOf other = some r → readReg t r = readReg s r) ∧
        t = ({ s with cfg := t.cfg, fr := t.fr } : State).done 0

/-- R166, R26: a `CFG.WR` to STATUS clears exactly the sticky bits 0, 2, 3 and 10 that the operand has at 1, in every
session state, and leaves ERRCODE, ERRCMD and everything else. -/
def Obligations.CfgWrStatusClearsStickyBits : Prop :=
  ∀ s : State, ∃ t, exec (.cfgWr 0x10) s = .next t ∧
    readReg t .status = readReg s .status &&& ~~~(s.port.wdata &&& 0x40D) ∧
    t.stat.errcode = s.stat.errcode ∧ t.stat.errcmd = s.stat.errcmd ∧
    t = ({ s with stat := t.stat } : State).done 0

/-- R166, R171, R173 to R175, R177: the four refusals of `CFG.WR`, in their priority. -/
def Obligations.CfgWrRefusalsInOrder : Prop :=
  ∀ (s : State) (reg : BitVec 8) (n v : Nat), n = reg.toNat → v = s.port.wdata.toNat →
    ((0x09 ≤ n ∧ n ≤ 0x0F) ∨ n = 0x1B ∨ n = 0x1F ∨ (0x29 ≤ n ∧ n ≤ 0x2F) ∨ 0x34 ≤ n →
      exec (.cfgWr reg) s = .next (s.faulted 0x81 (encode (.cfgWr reg)))) ∧
    ((0x11 ≤ n ∧ n ≤ 0x1A) ∨ (0x1C ≤ n ∧ n ≤ 0x1E) ∨ (0x20 ≤ n ∧ n ≤ 0x28) ∨ (0x30 ≤ n ∧ n ≤ 0x33) →
      exec (.cfgWr reg) s = .next (s.faulted 0x82 (encode (.cfgWr reg)))) ∧
    (n ≤ 5 → s.snd.act = true ∨ s.rcv.act = true →
      exec (.cfgWr reg) s = .next (s.faulted 0x85 (encode (.cfgWr reg)))) ∧
    (n ≤ 8 → (n ≤ 5 → s.snd.act = false ∧ s.rcv.act = false) →
      (n = 0 ∧ 8 ≤ v) ∨ (n = 1 ∧ (v = 0 ∨ s.params.rbufCap - 4 < v)) ∨
        ((n = 2 ∨ n = 3 ∨ n = 4 ∨ n = 6) ∧ 4294967296 ≤ v) ∨ (n = 5 ∧ 281474976710656 ≤ v) ∨
        ((n = 7 ∨ n = 8) ∧ s.params.rbufCap < v) →
      exec (.cfgWr reg) s = .next (s.faulted 0x83 (encode (.cfgWr reg))))

/-- R167, R28: `CFG.RD` completes with the read-out of every register of the map, in every state and without a side
effect, and raises BAD_REG on every other number. -/
def Obligations.CfgRdReadsOrRefuses : Prop :=
  ∀ (s : State) (reg : BitVec 8),
    (∀ r, regOf reg = some r → exec (.cfgRd reg) s = .next (s.done (readReg s r))) ∧
      (regOf reg = none ↔
        (0x09 ≤ reg.toNat ∧ reg.toNat ≤ 0x0F) ∨ reg.toNat = 0x1B ∨ reg.toNat = 0x1F ∨
          (0x29 ≤ reg.toNat ∧ reg.toNat ≤ 0x2F) ∨ 0x34 ≤ reg.toNat) ∧
      (regOf reg = none → exec (.cfgRd reg) s = .next (s.faulted 0x81 (encode (.cfgRd reg))))

/-- R35, R36, R39, R40: how the session registers and the state views read. -/
def Obligations.SessionReadOut : Prop :=
  ∀ s : State,
    (s.snd.lastAck = -1 → exec (.cfgRd 0x23) s = .next (s.done 0xFFFFFFFFFFFFFFFF)) ∧
    (s.snd.lastPacket = -1 → exec (.cfgRd 0x24) s = .next (s.done 0xFFFFFFFFFFFFFFFF)) ∧
    (s.rcv.lastRecvd = -1 → exec (.cfgRd 0x31) s = .next (s.done 0xFFFFFFFFFFFFFFFF)) ∧
    (∀ n : Nat, s.snd.lastAck = n → exec (.cfgRd 0x23) s = .next (s.done (BitVec.ofNat 64 n))) ∧
    (∀ n : Nat, s.snd.lastPacket = n → exec (.cfgRd 0x24) s = .next (s.done (BitVec.ofNat 64 n))) ∧
    (∀ n : Nat, s.rcv.lastRecvd = n → exec (.cfgRd 0x31) s = .next (s.done (BitVec.ofNat 64 n))) ∧
    (s.snd.toSend = .tearingDown → exec (.cfgRd 0x22) s = .next (s.done 0xFFFFFFFFFFFFFFFF)) ∧
    (∀ k : Nat, s.snd.toSend = .sending k → exec (.cfgRd 0x22) s = .next (s.done (BitVec.ofNat 64 k))) ∧
    exec (.cfgRd 0x20) s = .next (s.done
      (if s.snd.term then 5 else if s.snd.act = false then 0
        else if s.snd.toSend = .tearingDown then (if s.snd.tdValid then 4 else 3)
        else if s.snd.lastPacket = -1 then 1 else 2)) ∧
    (s.rcv.act = false → s.rcv.term = false → exec (.cfgRd 0x30) s = .next (s.done 0)) ∧
    (s.rcv.act = true → s.rcv.term = false → exec (.cfgRd 0x30) s = .next (s.done 1)) ∧
    (s.rcv.act = false → s.rcv.term = true → exec (.cfgRd 0x30) s = .next (s.done 2)) ∧
    exec (.cfgRd 0x21) s = .next (s.done (BitVec.ofNat 64 s.snd.windowStart)) ∧
    exec (.cfgRd 0x25) s = .next (s.done (BitVec.ofNat 64 s.snd.windowSize)) ∧
    exec (.cfgRd 0x26) s = .next (s.done (s.snd.len.setWidth 64)) ∧
    exec (.cfgRd 0x27) s = .next (s.done s.snd.rtxT0) ∧
    exec (.cfgRd 0x28) s = .next (s.done s.snd.tdT0) ∧
    exec (.cfgRd 0x32) s = .next (s.done (BitVec.ofNat 64 s.rcv.alen)) ∧
    exec (.cfgRd 0x33) s = .next (s.done (s.rcv.peer.setWidth 64))

/-- R28, R167: how the other registers but STATUS read: zero-extended, CS_ODD composed, RXLEN and RXSRC from the head
datagram. That RXCNT is below 2^16 is the model's reading of its width (assumption 4). -/
def Obligations.RegistersReadZeroExtended : Prop :=
  ∀ s : State,
    exec (.cfgRd 0x00) s = .next (s.done (s.cfg.ctrl.setWidth 64)) ∧
    exec (.cfgRd 0x01) s = .next (s.done (BitVec.ofNat 64 s.cfg.psize)) ∧
    exec (.cfgRd 0x02) s = .next (s.done (s.cfg.window.setWidth 64)) ∧
    exec (.cfgRd 0x03) s = .next (s.done (s.cfg.rto.setWidth 64)) ∧
    exec (.cfgRd 0x04) s = .next (s.done (s.cfg.kill.setWidth 64)) ∧
    exec (.cfgRd 0x05) s = .next (s.done (s.cfg.dest.setWidth 64)) ∧
    exec (.cfgRd 0x06) s = .next (s.done (s.fr.seq.setWidth 64)) ∧
    exec (.cfgRd 0x07) s = .next (s.done (BitVec.ofNat 64 s.fr.plen)) ∧
    exec (.cfgRd 0x08) s = .next (s.done (BitVec.ofNat 64 s.fr.txlen)) ∧
    exec (.cfgRd 0x11) s = .next (s.done (s.stat.errcode.setWidth 64)) ∧
    exec (.cfgRd 0x12) s = .next (s.done (s.stat.errcmd.setWidth 64)) ∧
    (s.rxq.length < 65536 → exec (.cfgRd 0x13) s = .next (s.done (BitVec.ofNat 64 s.rxq.length))) ∧
    (s.rxq = [] →
      exec (.cfgRd 0x14) s = .next (s.done 0) ∧ exec (.cfgRd 0x15) s = .next (s.done 0)) ∧
    (∀ (d : Datagram) (q : List Datagram), s.rxq = d :: q →
      exec (.cfgRd 0x14) s = .next (s.done (BitVec.ofNat 64 d.bytes.length)) ∧
        exec (.cfgRd 0x15) s = .next (s.done (d.tag.setWidth 64))) ∧
    exec (.cfgRd 0x16) s = .next (s.done
      (if s.dec.stat = .ok then 0 else if s.dec.stat = .badsum then 1 else if s.dec.stat = .runt then 2 else 3)) ∧
    exec (.cfgRd 0x17) s = .next (s.done (s.dec.seq.setWidth 64)) ∧
    exec (.cfgRd 0x18) s = .next (s.done (BitVec.ofNat 64 s.dec.plen)) ∧
    exec (.cfgRd 0x19) s = .next (s.done (BitVec.ofNat 64 s.dec.poff)) ∧
    exec (.cfgRd 0x1A) s = .next (s.done (s.dec.csum.setWidth 64)) ∧
    exec (.cfgRd 0x1C) s = .next (s.done (s.csu.acc.setWidth 64)) ∧
    (s.csu.odd = false → exec (.cfgRd 0x1D) s = .next (s.done 0)) ∧
    (s.csu.odd = true → exec (.cfgRd 0x1D) s = .next (s.done (BitVec.ofNat 64 (1 + 256 * s.csu.hold.toNat)))) ∧
    exec (.cfgRd 0x1E) s = .next (s.done s.time)

/-- R26: each bit of STATUS, and that bits 63:12 read as 0. -/
def Obligations.StatusBitsFollowTheMap : Prop :=
  ∀ s : State, ∃ v, exec (.cfgRd 0x10) s = .next (s.done v) ∧
    v.getLsbD 0 = s.stat.err ∧ (v.getLsbD 1 = true ↔ s.rxq ≠ []) ∧ v.getLsbD 2 = s.stat.rxovr ∧
    v.getLsbD 3 = s.stat.rxbig ∧ v.getLsbD 4 = s.snd.act ∧ v.getLsbD 5 = s.snd.term ∧
    v.getLsbD 6 = s.snd.forced ∧ v.getLsbD 7 = s.snd.tdValid ∧ v.getLsbD 8 = s.rcv.act ∧
    v.getLsbD 9 = s.rcv.term ∧ v.getLsbD 10 = s.stat.rOvf ∧ (v.getLsbD 11 = true ↔ s.dec.stat = .ok) ∧
    ∀ i, 12 ≤ i → v.getLsbD i = false

/-- R168, R63 (b): `BUF.WRB` writes its one byte of PLD or TXP, a `BUF.RDB` of that address then returns it, and every
other byte of every memory reads as before. -/
def Obligations.BufWrbWritesOneByte : Prop :=
  ∀ (s : State) (buf : BitVec 4) (addr : BitVec 12) (b : Byte) (sp : Space),
    (buf = 0 ∧ sp = .pld) ∨ (buf = 1 ∧ sp = .txp) → addr.toNat < s.params.rbufCap →
      ∃ t, exec (.bufWrb buf addr b) s = .next t ∧
        exec (.bufRdb buf addr) t = .next (t.done (b.setWidth 64)) ∧
        t.byteAt sp addr.toNat = b ∧
        (∀ sp' a, (sp' ≠ sp ∨ a ≠ addr.toNat) → t.byteAt sp' a = s.byteAt sp' a) ∧
        t = ({ s with pld := t.pld, txp := t.txp } : State).done 0

/-- R169: `BUF.RDB` returns the byte of PLD or TXP anywhere in the buffer, or of the head datagram inside it, and
changes nothing. -/
def Obligations.BufRdbReadsOneByte : Prop :=
  ∀ (s : State) (addr : BitVec 12),
    (addr.toNat < s.params.rbufCap →
      exec (.bufRdb 0 addr) s = .next (s.done ((s.byteAt .pld addr.toNat).setWidth 64)) ∧
      exec (.bufRdb 1 addr) s = .next (s.done ((s.byteAt .txp addr.toNat).setWidth 64))) ∧
    (∀ (d : Datagram) (q : List Datagram) (b : Byte), s.rxq = d :: q → d.bytes[addr.toNat]? = some b →
      exec (.bufRdb 2 addr) s = .next (s.done (b.setWidth 64)))

/-- R81 (c) to (e), R172, R176: the reserved buffer ids raise ILLEGAL_CMD in the four operations that select a buffer,
and an address outside the buffer raises BAD_ADDR. -/
def Obligations.BufferOperandFaults : Prop :=
  ∀ (s : State) (buf : BitVec 4) (addr : BitVec 12) (b : Byte),
    (buf.toNat < 2 → s.params.rbufCap ≤ addr.toNat →
      exec (.bufWrb buf addr b) s = .next (s.faulted 0x84 (encode (.bufWrb buf addr b))) ∧
      exec (.bufRdb buf addr) s = .next (s.faulted 0x84 (encode (.bufRdb buf addr)))) ∧
    ((∀ d ∈ s.rxq.head?, d.bytes.length ≤ addr.toNat) →
      exec (.bufRdb 2 addr) s = .next (s.faulted 0x84 (encode (.bufRdb 2 addr)))) ∧
    (2 ≤ buf.toNat → exec (.bufWrb buf addr b) s = .next (s.faulted 0x80 (encode (.bufWrb buf addr b)))) ∧
      (3 ≤ buf.toNat → exec (.bufRdb buf addr) s = .next (s.faulted 0x80 (encode (.bufRdb buf addr)))) ∧
      (3 ≤ buf.toNat → exec (.csBuf buf) s = .next (s.faulted 0x80 (encode (.csBuf buf)))) ∧
      (buf.toNat = 0 ∨ 3 ≤ buf.toNat → exec (.frDec buf) s = .next (s.faulted 0x80 (encode (.frDec buf))))

/-! ## The checksum unit -/

/-- R101 to R103, R96: `CS.CLR` starts a new sum, `CS.PUTB` absorbs one byte and `CS.PUTH` two, high byte first; each
completes in every state and writes the CSU registers only. -/
def Obligations.CsPutAbsorbsBytes : Prop :=
  ∀ s : State,
    (∃ t, exec .csClr s = .next t ∧ t.csu.Absorbed [] ∧ t = ({ s with csu := t.csu } : State).done 0) ∧
    (∀ b : Byte, ∃ t, exec (.csPutb b) s = .next t ∧ t = ({ s with csu := t.csu } : State).done 0 ∧
      ∀ bs, s.csu.Absorbed bs → t.csu.Absorbed (bs ++ [b])) ∧
    (∀ hi lo : Byte, ∃ t, exec (.csPuth (hi ++ lo)) s = .next t ∧ t = ({ s with csu := t.csu } : State).done 0 ∧
      ∀ bs, s.csu.Absorbed bs → t.csu.Absorbed (bs ++ [hi, lo]))

/-- R104: `CS.BUF` absorbs the valid bytes of the selected buffer, continuing the current sum; RXQ keeps its head. -/
def Obligations.CsBufAbsorbsTheBuffer : Prop :=
  ∀ (s : State) (buf : BitVec 4) (xs : List Byte),
    (buf = 0 ∧ s.fr.plen ≤ s.params.rbufCap ∧ xs = s.memRead .pld 0 s.fr.plen) ∨
      (buf = 1 ∧ s.fr.txlen ≤ s.params.rbufCap ∧ xs = s.memRead .txp 0 s.fr.txlen) ∨
      (buf = 2 ∧ xs = (s.rxq.head?.map (·.bytes)).getD []) →
      ∃ t, exec (.csBuf buf) s = .next t ∧ t = ({ s with csu := t.csu } : State).done 0 ∧
        ∀ bs, s.csu.Absorbed bs → t.csu.Absorbed (bs ++ xs)

/-- R105, R106, R96: after the bytes `bs`, `CS.GET` returns their checksum, an odd last byte padded in the result only,
and `CS.VFY` says whether it is 0; both change nothing. -/
def Obligations.CsGetAndVfyReadTheSum : Prop :=
  ∀ (s : State) (bs : List Byte), s.csu.Absorbed bs →
    exec .csGet s = .next (s.done ((checksum bs).setWidth 64)) ∧
      exec .csVfy s = .next (s.done (if ocSum bs = 0xFFFF then 1 else 0))

/-- R85, R96, R203: the HOST's sequence `CS.CLR`, `CS.PUTS b0 b1 …`, `CS.GET`, of any length and from any state,
returns the checksum of the bytes. -/
def Obligations.ClearPutsGetReturnsTheChecksum : Prop :=
  ∀ (s : State) (bs : List Byte) (rest : List Event),
    s.sched = issue .csClr 0 :: (csPuts bs ++ issue .csGet 0 :: rest) →
      ∃ t, Sys2Proof.core.run (bs.length + 2) s = .next t ∧ t.port.status = 0 ∧
        t.port.rdata = (checksum bs).setWidth 64 ∧
        t = { s with csu := t.csu, port := t.port, sched := rest }

/-- R85, R51, R63: the expansion of `PLD.LOAD`, of any length the buffer holds, leaves exactly those bytes as
`PLD[0, PLEN)` and changes nothing else. -/
def Obligations.PldLoadStagesThePayload : Prop :=
  ∀ (s : State) (bs : List Byte) (rest : List Event), s.params.Legal → bs.length ≤ s.params.rbufCap →
    s.sched = pldLoad bs ++ rest →
      ∃ t, Sys2Proof.core.run (bs.length + 1) s = .next t ∧ t.memRead .pld 0 t.fr.plen = bs ∧
        t.fr = { s.fr with plen := bs.length } ∧
        (∀ a, bs.length ≤ a → t.byteAt .pld a = s.byteAt .pld a) ∧
        t = { s with pld := t.pld, fr := t.fr, port := t.port, sched := rest }

/-! ## The framer and the network ports -/

/-- R121: `FR.ENC` frames `PLD[0, PLEN)` under SEQ into TXP, or raises OVERSIZE. -/
def Obligations.FrEncFramesThePayload : Prop :=
  ∀ s : State, s.fr.plen ≤ s.params.rbufCap →
    (hdr s.cfg.csen + s.fr.plen ≤ s.params.rbufCap →
      ∃ t, exec .frEnc s = .next t ∧
        s.FramedInto t (encodePkt s.fr.seq (s.memRead .pld 0 s.fr.plen) s.cfg.csen) ∧
        t.fr.txlen = (if s.cfg.ctrl.getLsbD 0 then 6 else 4) + s.fr.plen ∧
        t = ({ s with txp := t.txp, fr := t.fr } : State).done (BitVec.ofNat 64 t.fr.txlen)) ∧
    (s.params.rbufCap < hdr s.cfg.csen + s.fr.plen → exec .frEnc s = .next (s.faulted 0x86 (encode .frEnc)))

/-- R122: `FR.DEC` shows the fields of TXP or of the head datagram in the decode registers, writes nothing else, and
returns D_STAT. -/
def Obligations.FrDecShowsThePacket : Prop :=
  ∀ (s : State) (buf : BitVec 4) (d : List Byte),
    (buf = 1 ∧ s.fr.txlen ≤ s.params.rbufCap ∧ d = s.memRead .txp 0 s.fr.txlen) ∨
      (buf = 2 ∧ ∃ h q, s.rxq = h :: q ∧ d = h.bytes) →
      ∃ t, exec (.frDec buf) s = .next t ∧ t.dec.Show d s.cfg.csen ∧
        t = ({ s with dec := t.dec } : State).done (BitVec.ofNat 64 t.dec.stat.code)

/-- R117, R121, R122: what `FR.ENC` framed, `FR.DEC TXP` takes apart again: status OK, SEQ, PLEN, and the payload in
place at D_POFF. -/
def Obligations.FrDecUndoesFrEnc : Prop :=
  ∀ s : State, hdr s.cfg.csen + s.fr.plen ≤ s.params.rbufCap →
    ∃ t u, exec .frEnc s = .next t ∧ exec (.frDec 1) t = .next u ∧
      u.port.status = 0 ∧ u.port.rdata = 0 ∧ u.dec.stat = .ok ∧ u.dec.seq = s.fr.seq ∧ u.dec.plen = s.fr.plen ∧
      u.dec.poff = hdr s.cfg.csen ∧
      (∀ i, i < s.fr.plen → u.byteAt .txp (u.dec.poff + i) = s.byteAt .pld i)

/-- R123, R124: `NET.TX` emits `TXP[0, TXLEN)` to DEST as it stands and writes nothing; `NET.RXPOP` drops the head of
RXQ, and RXLEN and RXSRC then show the next entry. -/
def Obligations.NetTxEmitsAndNetRxpopDrops : Prop :=
  ∀ s : State,
    (s.fr.txlen ≤ s.params.rbufCap →
      exec .netTx s = .next (({ s with
        netOut := s.netOut ++ [{ tag := s.cfg.dest, bytes := s.memRead .txp 0 s.fr.txlen }] } : State).done 0)) ∧
    (∀ (d : Datagram) (q : List Datagram), s.rxq = d :: q →
      exec .netRxpop s = .next (({ s with rxq := q } : State).done 0) ∧
        ∀ e r, q = e :: r →
          readReg ({ s with rxq := q } : State) .rxlen = BitVec.ofNat 64 e.bytes.length ∧
            readReg ({ s with rxq := q } : State) .rxsrc = e.tag.setWidth 64)

/-- R179, R153, R177: EMPTY, and no state changes; `RCV.STEP` tests for a session first, and `SND.STEP` never returns
EMPTY. -/
def Obligations.EmptyQueueChangesNothing : Prop :=
  ∀ s : State,
    (s.rxq = [] →
      exec .netRxpop s = .next s.foundEmpty ∧ exec (.frDec 2) s = .next s.foundEmpty ∧
        (s.rcv.act = true → exec .rcvStep s = .next s.foundEmpty)) ∧
    (s.rcv.act = false → exec .rcvStep s = .next (s.faulted 0x85 (encode .rcvStep))) ∧
    (∀ t, exec .sndStep s = .next t → t.port.status ≠ 0x01)

/-! ## The sender controller -/

/-- R131: `SND.START` creates a sender session, or raises BAD_STATE, or raises CFG_RANGE, in that order. -/
def Obligations.SndStartCreatesOrRefuses : Prop :=
  ∀ (s : State) (len : Nat), 1 ≤ s.cfg.psize → len = s.port.wdata.toNat →
    (s.snd.act = true ∨ s.rcv.act = true → exec .sndStart s = .next (s.faulted 0x85 (encode .sndStart))) ∧
    (s.snd.act = false → s.rcv.act = false →
      4294967296 ≤ len ∨ s.cfg.window = 0 ∨ s.cfg.rto = 0 ∨
        (s.cfg.ctrl.getLsbD 1 = true ∧ s.cfg.kill.toNat ≤ s.cfg.rto.toNat) ∨
        s.params.rbufCap < (if s.cfg.ctrl.getLsbD 0 then 6 else 4) + max s.cfg.psize 10 ∨
        4294967294 < len % 4294967296 / s.cfg.psize →
      exec .sndStart s = .next (s.faulted 0x83 (encode .sndStart))) ∧
    (s.snd.act = false → s.rcv.act = false → len < 4294967296 → s.cfg.window ≠ 0 → s.cfg.rto ≠ 0 →
      (s.cfg.ctrl.getLsbD 1 = true → s.cfg.rto.toNat < s.cfg.kill.toNat) →
      (if s.cfg.ctrl.getLsbD 0 then 6 else 4) + max s.cfg.psize 10 ≤ s.params.rbufCap →
      len / s.cfg.psize ≤ 4294967294 →
      exec .sndStart s = .next (({ s with
        rxq := []
        snd :=
          { act := true, term := false, forced := false, tdValid := false, windowStart := 0, toSend := .sending 0,
            lastAck := -1, lastPacket := -1, windowSize := s.cfg.window.toNat, rtxT0 := s.time, tdT0 := 0,
            len := BitVec.ofNat 32 len } } : State).done 0))

/-- R140, R141, R132: with nothing received and no time-out due, `SND.STEP` sends the next data packet inside the
window, and a payload shorter than PSIZE makes it the final one and shrinks the window. For `last_packet` unknown and `k`
above `floor(S_LEN / PSIZE)`, where a retransmit time-out leads after an early ACK, that the empty packet `k` is sent and
recorded as `last_packet` is R134 to the letter and the model's choice (assumption 17), against R148 (a) and R210. -/
def Obligations.SndStepSendsTheNextPacket : Prop :=
  ∀ (s : State) (k : Nat) (payload : List Byte),
    s.snd.act = true → s.snd.term = false → s.frameTooBig = false → s.rxq = [] →
    s.snd.toSend = .sending k → s.snd.tdValid = false → s.time.toNat ≤ s.snd.rtxT0.toNat + s.cfg.rto.toNat →
    k < s.snd.windowStart + s.snd.windowSize → (s.snd.lastPacket = -1 ∨ (k : Int) ≤ s.snd.lastPacket) →
    k < 4294967296 →
    payload = s.memRead .tbuf (k * s.cfg.psize) (min s.cfg.psize (s.snd.len.toNat - k * s.cfg.psize)) →
      ∃ t, exec .sndStep s = .next t ∧
        s.FramedInto t (encodePkt (BitVec.ofNat 32 k) payload s.cfg.csen) ∧
        t.netOut = s.netOut ++
          [{ tag := s.cfg.dest, bytes := encodePkt (BitVec.ofNat 32 k) payload s.cfg.csen }] ∧
        t.snd = (if payload.length < s.cfg.psize then
            { s.snd with
              toSend := .sending (k + 1), lastPacket := k
              windowSize := if k + 1 < s.snd.windowStart + s.snd.windowSize then k + 1 - s.snd.windowStart
                else s.snd.windowSize }
          else { s.snd with toSend := .sending (k + 1) }) ∧
        t.port = { s.port with
          status := 0, rdata := if payload.length < s.cfg.psize ∨ s.snd.lastPacket ≠ -1 then 0x201 else 0x101 } ∧
        t = { s with txp := t.txp, fr := t.fr, snd := t.snd, netOut := t.netOut, port := t.port }

/-- R143: with nothing received, no time-out due, and the window full or every packet sent, `SND.STEP` changes nothing. -/
def Obligations.SndStepWaitsForAcks : Prop :=
  ∀ (s : State) (k : Nat),
    s.snd.act = true → s.snd.term = false → s.rxq = [] → s.snd.toSend = .sending k → s.snd.tdValid = false →
    s.time.toNat ≤ s.snd.rtxT0.toNat + s.cfg.rto.toNat →
    s.snd.windowStart + s.snd.windowSize ≤ k ∨ (s.snd.lastPacket ≠ -1 ∧ s.snd.lastPacket < (k : Int)) →
      exec .sndStep s = .next (s.done (if s.snd.lastPacket = -1 then 0x100 else 0x200))

/-- R135, R134: an ACK whose number exceeds `last_ack` is applied first: the rest of the iteration is that of the state
with the window slid, the timer restarted, and teardown pending if the final packet is acknowledged. -/
def Obligations.SndStepAppliesAnAckFirst : Prop :=
  ∀ (s t : State) (d : Datagram) (q : List Datagram) (seq : Nat),
    s.snd.act = true → s.rxq = d :: q → (decodePkt d.bytes s.cfg.csen).status = .ok →
    (decodePkt d.bytes s.cfg.csen).payload = [0x52, 0x44, 0x54, 0x41, 0x63, 0x6B, 0x2E] →
    (decodePkt d.bytes s.cfg.csen).seq.toNat = seq → s.snd.lastAck < (seq : Int) →
    exec .sndStep { s with
      rxq := []
      snd := { s.snd with
        windowStart := s.snd.windowStart + ((seq : Int) - s.snd.lastAck).toNat
        lastAck := seq
        rtxT0 := s.time
        toSend := if (seq : Int) = s.snd.lastPacket then .tearingDown else s.snd.toSend } } = .next t →
      exec .sndStep s = .next { t with rxq := q, port := { t.port with rdata := t.port.rdata + 2 } }

/-- R137, R125: any other datagram but a teardown-ack is removed and changes nothing: the iteration is that of an empty
queue, with RXC reported. That such a step can send, so that TX is 1 after a bad checksum or a short datagram, against the
TX = 0 of R182's table, is the model's choice (assumption 18). -/
def Obligations.SndStepIgnoresOtherDatagrams : Prop :=
  ∀ (s t : State) (d : Datagram) (q : List Datagram) (p : Packet),
    s.snd.act = true → s.rxq = d :: q → p = decodePkt d.bytes s.cfg.csen →
    p.status ≠ .ok ∨
      (p.payload = [0x52, 0x44, 0x54, 0x41, 0x63, 0x6B, 0x2E] ∧ (p.seq.toNat : Int) ≤ s.snd.lastAck) ∨
      (p.payload ≠ [0x52, 0x44, 0x54, 0x41, 0x63, 0x6B, 0x2E] ∧
        p.payload ≠ [0x52, 0x44, 0x54, 0x45, 0x6E, 0x64, 0x41, 0x63, 0x6B, 0x2E]) →
    exec .sndStep { s with rxq := [] } = .next t →
      exec .sndStep s = .next { t with rxq := q, port := { t.port with rdata := t.port.rdata + 2 } }

/-- R138: the retransmit time-out, strict: the iteration is that of the state with `to_send` back at `window_start` and
the timer restarted. Where that is beyond the final packet, with `last_packet` unknown, what is then sent is the model's
choice (assumption 17). -/
def Obligations.SndStepGoesBackOnTimeout : Prop :=
  ∀ (s : State) (k : Nat),
    s.snd.act = true → s.rxq = [] → s.snd.toSend = .sending k →
    s.snd.rtxT0.toNat + s.cfg.rto.toNat < s.time.toNat →
      exec .sndStep s = exec .sndStep
        { s with snd := { s.snd with toSend := .sending s.snd.windowStart, rtxT0 := s.time } }

/-- R136, R139, R144, R183: the two ways a session ends. A valid packet whose payload is `RDTEndAck.` ends it confirmed,
in any state and whatever its number, before any time-out is tested; the kill time-out, strict, ends it forced. Nothing
is emitted. -/
def Obligations.SndStepEndsTheSession : Prop :=
  ∀ s : State, s.snd.act = true →
    (∀ (d : Datagram) (q : List Datagram), s.rxq = d :: q → (decodePkt d.bytes s.cfg.csen).status = .ok →
      (decodePkt d.bytes s.cfg.csen).payload = [0x52, 0x44, 0x54, 0x45, 0x6E, 0x64, 0x41, 0x63, 0x6B, 0x2E] →
      exec .sndStep s = .next
        (({ s with rxq := q, snd := { s.snd with term := true, act := false } } : State).done 0x506)) ∧
    (s.rxq = [] → s.snd.toSend = .tearingDown → s.cfg.ctrl.getLsbD 1 = true → s.snd.tdValid = true →
      s.snd.tdT0.toNat + s.cfg.kill.toNat < s.time.toNat →
      exec .sndStep s = .next
        (({ s with snd := { s.snd with term := true, forced := true, act := false } } : State).done 0x504))

/-- R142: while teardown is pending, and not killed, every `SND.STEP` sends `RDTEnd.` under `last_packet + 1`, and the
first one records the teardown time. -/
def Obligations.SndStepSendsTheTeardown : Prop :=
  ∀ (s : State) (n : Nat),
    s.snd.act = true → s.snd.term = false → s.frameTooBig = false → s.rxq = [] → s.snd.toSend = .tearingDown →
    s.snd.lastPacket + 1 = (n : Int) → n < 4294967296 →
    s.cfg.ctrl.getLsbD 1 = false ∨ s.snd.tdValid = false ∨
      s.time.toNat ≤ s.snd.tdT0.toNat + s.cfg.kill.toNat →
      ∃ t, exec .sndStep s = .next t ∧
        s.FramedInto t
          (encodePkt (BitVec.ofNat 32 n) [0x52, 0x44, 0x54, 0x45, 0x6E, 0x64, 0x2E] s.cfg.csen) ∧
        t.netOut = s.netOut ++
          [{ tag := s.cfg.dest
             bytes := encodePkt (BitVec.ofNat 32 n) [0x52, 0x44, 0x54, 0x45, 0x6E, 0x64, 0x2E] s.cfg.csen }] ∧
        t.snd = (if s.snd.tdValid then s.snd else { s.snd with tdValid := true, tdT0 := s.time }) ∧
        t = ({ s with txp := t.txp, fr := t.fr, snd := t.snd, netOut := t.netOut } : State).done 0x401

/-- R132, R146 (b), R177, R37 (d): `SND.STEP` completes in every active session, `last_ack` and `window_start` never
decrease, teardown becomes pending only where `last_ack = last_packet` holds, at most one datagram is consumed and at
most one emitted; with no session it raises BAD_STATE. R148 (a), R210: once `last_ack` exceeds a known `last_packet`, it
does so for ever, and neither teardown nor `td_valid` is ever set; and once `to_send` is beyond `last_packet` too, the
session idles: nothing is sent, and `to_send` stays beyond it. (While `last_packet` is unknown, see assumption 17.) -/
def Obligations.SndStepCompletesAndNeverGoesBack : Prop :=
  ∀ s : State,
    (s.snd.act = false → exec .sndStep s = .next (s.faulted 0x85 (encode .sndStep))) ∧
    (s.snd.act = true → s.frameTooBig = false →
      ∃ t, exec .sndStep s = .next t ∧ t.port.status = 0 ∧ s.snd.lastAck ≤ t.snd.lastAck ∧
        s.snd.windowStart ≤ t.snd.windowStart ∧ t.rxq = s.rxq.tail ∧
        (s.snd.toSend ≠ .tearingDown → t.snd.toSend = .tearingDown → t.snd.lastAck = t.snd.lastPacket) ∧
        (s.snd.toSend ≠ .tearingDown → s.snd.lastPacket ≠ -1 → s.snd.lastPacket < s.snd.lastAck →
          t.snd.toSend ≠ .tearingDown ∧ t.snd.tdValid = s.snd.tdValid ∧
            t.snd.lastPacket ≠ -1 ∧ t.snd.lastPacket < t.snd.lastAck) ∧
        (∀ k, s.snd.toSend = .sending k → s.snd.lastPacket ≠ -1 → s.snd.lastPacket < s.snd.lastAck →
          s.snd.lastPacket < (k : Int) → (s.snd.windowStart : Int) = s.snd.lastAck + 1 →
          t.netOut = s.netOut ∧ t.snd.lastPacket = s.snd.lastPacket ∧
            ∃ j, t.snd.toSend = .sending j ∧ t.snd.lastPacket < (j : Int)) ∧
        ((t.netOut = s.netOut ∧ t.txp = s.txp ∧ t.fr = s.fr) ∨
          ∃ p, t.netOut = s.netOut ++ [{ tag := s.cfg.dest, bytes := p }] ∧ s.FramedInto t p))

/-! ## The receiver controller -/

/-- R151: `RCV.START` creates a receiver session, or raises BAD_STATE, or raises CFG_RANGE, in that order; STATUS.R_OVF
and the bytes of ABUF stay. -/
def Obligations.RcvStartCreatesOrRefuses : Prop :=
  ∀ s : State,
    (s.snd.act = true ∨ s.rcv.act = true → exec .rcvStart s = .next (s.faulted 0x85 (encode .rcvStart))) ∧
    (s.snd.act = false → s.rcv.act = false →
      s.params.rbufCap < (if s.cfg.ctrl.getLsbD 0 then 6 else 4) + max s.cfg.psize 10 →
      exec .rcvStart s = .next (s.faulted 0x83 (encode .rcvStart))) ∧
    (s.snd.act = false → s.rcv.act = false →
      (if s.cfg.ctrl.getLsbD 0 then 6 else 4) + max s.cfg.psize 10 ≤ s.params.rbufCap →
      exec .rcvStart s = .next (({ s with
        rxq := [], rcv := { act := true, term := false, lastRecvd := -1, alen := 0, peer := 0 } } : State).done 0))

/-- R156, R160: a valid packet with the next expected number is appended to ABUF, counted, and acknowledged to its
source; no other byte of ABUF is written. -/
def Obligations.RcvStepAppendsInOrder : Prop :=
  ∀ (s : State) (d : Datagram) (q : List Datagram) (p : Packet),
    s.rcv.act = true → s.rcv.term = false → s.frameTooBig = false → s.rxq = d :: q →
    p = decodePkt d.bytes s.cfg.csen → p.status = .ok →
    p.payload ≠ [0x52, 0x44, 0x54, 0x45, 0x6E, 0x64, 0x2E] → (p.seq.toNat : Int) = s.rcv.lastRecvd + 1 →
    s.rcv.alen + p.payload.length ≤ s.params.abufCap →
      ∃ t, exec .rcvStep s = .next t ∧
        s.FramedInto t (encodePkt p.seq [0x52, 0x44, 0x54, 0x41, 0x63, 0x6B, 0x2E] s.cfg.csen) ∧
        t.netOut = s.netOut ++
          [{ tag := d.tag, bytes := encodePkt p.seq [0x52, 0x44, 0x54, 0x41, 0x63, 0x6B, 0x2E] s.cfg.csen }] ∧
        t.rcv = { s.rcv with
          lastRecvd := s.rcv.lastRecvd + 1, alen := s.rcv.alen + p.payload.length, peer := d.tag } ∧
        t.memRead .abuf s.rcv.alen p.payload.length = p.payload ∧
        (∀ a, a < s.rcv.alen ∨ s.rcv.alen + p.payload.length ≤ a → t.byteAt .abuf a = s.byteAt .abuf a) ∧
        t = ({ s with
          rxq := q, txp := t.txp, fr := t.fr, rcv := t.rcv, abuf := t.abuf, netOut := t.netOut } : State).done 0x103

/-- R154, R157, R159, R160: a datagram that is not valid changes nothing but RXQ; a valid one that is not the next
expected is discarded with no ACK and only sets R_PEER; one that does not fit ABUF is refused and sets R_OVF. -/
def Obligations.RcvStepDiscardsTheRest : Prop :=
  ∀ (s : State) (d : Datagram) (q : List Datagram) (p : Packet),
    s.rcv.act = true → s.rcv.term = false → s.rxq = d :: q → p = decodePkt d.bytes s.cfg.csen →
    (p.status ≠ .ok → exec .rcvStep s = .next (({ s with rxq := q } : State).done 0x102)) ∧
    (p.status = .ok → p.payload ≠ [0x52, 0x44, 0x54, 0x45, 0x6E, 0x64, 0x2E] →
      ((p.seq.toNat : Int) ≠ s.rcv.lastRecvd + 1 →
        exec .rcvStep s = .next (({ s with rxq := q, rcv := { s.rcv with peer := d.tag } } : State).done 0x102)) ∧
      ((p.seq.toNat : Int) = s.rcv.lastRecvd + 1 → s.params.abufCap < s.rcv.alen + p.payload.length →
        exec .rcvStep s = .next (({ s with
          rxq := q, rcv := { s.rcv with peer := d.tag }, stat := { s.stat with rOvf := true } } : State).done 0x102)))

/-- R155, R158: a valid packet whose payload is `RDTEnd.` ends the session whatever its number; the reply carries
`last_recvd`, and there is none while `last_recvd` is -1. -/
def Obligations.RcvStepEndsOnTeardown : Prop :=
  ∀ (s : State) (d : Datagram) (q : List Datagram) (p : Packet),
    s.rcv.act = true → s.frameTooBig = false → s.rxq = d :: q →
    p = decodePkt d.bytes s.cfg.csen → p.status = .ok →
    p.payload = [0x52, 0x44, 0x54, 0x45, 0x6E, 0x64, 0x2E] →
    (s.rcv.lastRecvd = -1 →
      exec .rcvStep s = .next
        (({ s with rxq := q, rcv := { s.rcv with term := true, act := false, peer := d.tag } } : State).done 0x206)) ∧
    (∀ n : Nat, s.rcv.lastRecvd = n → n < 4294967296 →
      ∃ t, exec .rcvStep s = .next t ∧
        s.FramedInto t (encodePkt (BitVec.ofNat 32 n)
          [0x52, 0x44, 0x54, 0x45, 0x6E, 0x64, 0x41, 0x63, 0x6B, 0x2E] s.cfg.csen) ∧
        t.netOut = s.netOut ++
          [{ tag := d.tag
             bytes := encodePkt (BitVec.ofNat 32 n)
               [0x52, 0x44, 0x54, 0x45, 0x6E, 0x64, 0x41, 0x63, 0x6B, 0x2E] s.cfg.csen }] ∧
        t.rcv = { s.rcv with term := true, act := false, peer := d.tag } ∧
        t = ({ s with
          rxq := q, txp := t.txp, fr := t.fr, rcv := t.rcv, netOut := t.netOut } : State).done 0x207)

/-! ## The whole machine -/

/-- R43: the state after reset is legal and meets `State.SenderExact`, since no session is active. Its parameters but
`RBUF_CAP` are the model's choice (assumption 3). -/
def Obligations.ResetStateIsLegal : Prop :=
  State.reset.Legal ∧ State.reset.SenderExact

/-- R30, R32, R34, R37, R41, R50: every step of every agent keeps the state legal: the memories canonical, the
registers in their ranges, the queue bounded, at most one session, R37 (a), (b), (e), (f), and R34 and R37 (c) but for the
one case that R134 forces: R34's ranges of `to_send` and `last_packet` wherever `last_ack` is below 2^32 - 2, and the
second half of R37 (c) unless `last_packet` lies beyond the final packet and at most one above `last_ack`. Every step also
keeps both with no exception, unless the datagram at the head of RXQ is an ACK for the final data packet, or beyond it,
while `last_packet` is unknown. What follows such an ACK is the model's choice (assumption 17). PSIZE may hold its reset
value 64 above `RBUF_CAP - 4` (assumption 3). -/
def Obligations.EveryStepKeepsTheStateLegal : Prop :=
  ∀ s t : State, s.Legal → step s = .next t →
    t.Legal ∧ (s.SenderExact → s.NoEarlyAck → t.SenderExact)

/-- R178, R170: from a legal state every step of every agent completes: no operation stops the machine. The one stop is
the model's, a HOST store outside TBUF (assumption 13), and it is excluded. -/
def Obligations.LegalStatesNeverStop : Prop :=
  ∀ s : State, s.Legal → s.NextStoreInRange → ∃ t, step s = .next t

/-- R170, R179, R82: a fault changes nothing but STATUS.ERR, ERRCODE, ERRCMD and the completion, EMPTY nothing but the
completion, and no other status is ever returned. That ERRCMD is the operation's own command word is read from R172
(assumption 5). -/
def Obligations.FaultsArePrecise : Prop :=
  ∀ (i : Instr) (s t : State), exec i s = .next t →
    (t.port.status = 0x00 ∨ t.port.status = 0x01 ∨ (0x80 ≤ t.port.status.toNat ∧ t.port.status.toNat ≤ 0x86)) ∧
      (t.port.status = 0x01 → t = s.foundEmpty) ∧
      (0x80 ≤ t.port.status.toNat → t = s.faulted t.port.status (encode i))

/-- R21, R23, R30, R31, R41, R163: which operations may write which registers: the CSU's only `CS.*`, the decode registers
only `FR.DEC`, the session variables only the controllers' operations, and reset; TIME none; and the configuration
only `CFG.WR`, and not that while a session is active. -/
def Obligations.OnlyOwnersWriteRegisters : Prop :=
  ∀ (i : Instr) (s t : State), exec i s = .next t →
    t.time = s.time ∧ t.params = s.params ∧ t.epoch = s.epoch ∧ t.sched = s.sched ∧ t.port.wdata = s.port.wdata ∧
      (match i with
        | .csClr | .csPutb _ | .csPuth _ | .csBuf _ | .sysRst => True
        | _ => t.csu = s.csu) ∧
      (match i with
        | .frDec _ | .sysRst => True
        | _ => t.dec = s.dec) ∧
      (match i with
        | .cfgWr _ => s.snd.act = true ∨ s.rcv.act = true → t.cfg = s.cfg
        | .sysRst => True
        | _ => t.cfg = s.cfg ∧ t.fr.seq = s.fr.seq ∧ t.fr.plen = s.fr.plen) ∧
      (match i with
        | .sndStart | .sndStep | .sysRst => True
        | _ => t.snd = s.snd) ∧
      (match i with
        | .rcvStart | .rcvStep | .sysRst => True
        | _ => t.rcv = s.rcv)

/-- R50 to R55, R61, R163: which operations may write which memory, remove datagrams or emit them. -/
def Obligations.OnlyOwnersWriteMemories : Prop :=
  ∀ (i : Instr) (s t : State), exec i s = .next t →
    (∀ a, t.byteAt .tbuf a = s.byteAt .tbuf a) ∧
      (match i with
        | .bufWrb _ _ _ => True
        | _ => ∀ a, t.byteAt .pld a = s.byteAt .pld a) ∧
      (match i with
        | .bufWrb _ _ _ | .frEnc | .sndStep | .rcvStep => True
        | _ => ∀ a, t.byteAt .txp a = s.byteAt .txp a) ∧
      (match i with
        | .rcvStep => True
        | _ => ∀ a, t.byteAt .abuf a = s.byteAt .abuf a) ∧
      (match i with
        | .netRxpop | .sndStart | .sndStep | .rcvStart | .rcvStep | .sysRst => True
        | _ => t.rxq = s.rxq) ∧
      (match i with
        | .netTx | .sndStep | .rcvStep => True
        | _ => t.netOut = s.netOut)

/-- R55, R62, R162 (b): what leaves the block is only added to: no step of any agent changes a byte of ABUF below
R_ALEN, emitted datagrams are never taken back or reordered, and a step emits at most one. -/
def Obligations.OutputsAreOnlyAddedTo : Prop :=
  ∀ s t : State, step s = .next t →
    (∀ a, a < s.rcv.alen → t.byteAt .abuf a = s.byteAt .abuf a) ∧
      ∃ ds, t.netOut = s.netOut ++ ds ∧ ds.length ≤ 1
end

