-- ==== Sys2Proof/Laws/State.lean ====
section
/-!
SUPPORT. One lemma per field of State for each named update, so that no later proof unfolds an update.
-/
namespace Sys2Proof.Machine

/-! ### `State.complete` -/

@[simp] theorem State.complete_csu (s : State) (st : Status) (rd : Dword) : (s.complete st rd).csu = s.csu := rfl
@[simp] theorem State.complete_fr (s : State) (st : Status) (rd : Dword) : (s.complete st rd).fr = s.fr := rfl
@[simp] theorem State.complete_dec (s : State) (st : Status) (rd : Dword) : (s.complete st rd).dec = s.dec := rfl
@[simp] theorem State.complete_cfg (s : State) (st : Status) (rd : Dword) : (s.complete st rd).cfg = s.cfg := rfl
@[simp] theorem State.complete_stat (s : State) (st : Status) (rd : Dword) : (s.complete st rd).stat = s.stat := rfl
@[simp] theorem State.complete_time (s : State) (st : Status) (rd : Dword) : (s.complete st rd).time = s.time := rfl
@[simp] theorem State.complete_snd (s : State) (st : Status) (rd : Dword) : (s.complete st rd).snd = s.snd := rfl
@[simp] theorem State.complete_rcv (s : State) (st : Status) (rd : Dword) : (s.complete st rd).rcv = s.rcv := rfl
@[simp] theorem State.complete_pld (s : State) (st : Status) (rd : Dword) : (s.complete st rd).pld = s.pld := rfl
@[simp] theorem State.complete_txp (s : State) (st : Status) (rd : Dword) : (s.complete st rd).txp = s.txp := rfl
@[simp] theorem State.complete_rxq (s : State) (st : Status) (rd : Dword) : (s.complete st rd).rxq = s.rxq := rfl
@[simp] theorem State.complete_tbuf (s : State) (st : Status) (rd : Dword) : (s.complete st rd).tbuf = s.tbuf := rfl
@[simp] theorem State.complete_abuf (s : State) (st : Status) (rd : Dword) : (s.complete st rd).abuf = s.abuf := rfl
@[simp] theorem State.complete_port (s : State) (st : Status) (rd : Dword) : (s.complete st rd).port = { s.port with status := st.code, rdata := rd } := rfl
@[simp] theorem State.complete_params (s : State) (st : Status) (rd : Dword) : (s.complete st rd).params = s.params := rfl
@[simp] theorem State.complete_epoch (s : State) (st : Status) (rd : Dword) : (s.complete st rd).epoch = s.epoch := rfl
@[simp] theorem State.complete_sched (s : State) (st : Status) (rd : Dword) : (s.complete st rd).sched = s.sched := rfl
@[simp] theorem State.complete_netOut (s : State) (st : Status) (rd : Dword) : (s.complete st rd).netOut = s.netOut := rfl

/-! ### `State.raise` -/

@[simp] theorem State.raise_csu (s : State) (f : Status) (c : Word) : (s.raise f c).csu = s.csu := rfl
@[simp] theorem State.raise_fr (s : State) (f : Status) (c : Word) : (s.raise f c).fr = s.fr := rfl
@[simp] theorem State.raise_dec (s : State) (f : Status) (c : Word) : (s.raise f c).dec = s.dec := rfl
@[simp] theorem State.raise_cfg (s : State) (f : Status) (c : Word) : (s.raise f c).cfg = s.cfg := rfl
@[simp] theorem State.raise_stat (s : State) (f : Status) (c : Word) : (s.raise f c).stat = { s.stat with err := true, errcode := f.code, errcmd := c } := rfl
@[simp] theorem State.raise_time (s : State) (f : Status) (c : Word) : (s.raise f c).time = s.time := rfl
@[simp] theorem State.raise_snd (s : State) (f : Status) (c : Word) : (s.raise f c).snd = s.snd := rfl
@[simp] theorem State.raise_rcv (s : State) (f : Status) (c : Word) : (s.raise f c).rcv = s.rcv := rfl
@[simp] theorem State.raise_pld (s : State) (f : Status) (c : Word) : (s.raise f c).pld = s.pld := rfl
@[simp] theorem State.raise_txp (s : State) (f : Status) (c : Word) : (s.raise f c).txp = s.txp := rfl
@[simp] theorem State.raise_rxq (s : State) (f : Status) (c : Word) : (s.raise f c).rxq = s.rxq := rfl
@[simp] theorem State.raise_tbuf (s : State) (f : Status) (c : Word) : (s.raise f c).tbuf = s.tbuf := rfl
@[simp] theorem State.raise_abuf (s : State) (f : Status) (c : Word) : (s.raise f c).abuf = s.abuf := rfl
@[simp] theorem State.raise_port (s : State) (f : Status) (c : Word) : (s.raise f c).port = { s.port with status := f.code, rdata := 0 } := rfl
@[simp] theorem State.raise_params (s : State) (f : Status) (c : Word) : (s.raise f c).params = s.params := rfl
@[simp] theorem State.raise_epoch (s : State) (f : Status) (c : Word) : (s.raise f c).epoch = s.epoch := rfl
@[simp] theorem State.raise_sched (s : State) (f : Status) (c : Word) : (s.raise f c).sched = s.sched := rfl
@[simp] theorem State.raise_netOut (s : State) (f : Status) (c : Word) : (s.raise f c).netOut = s.netOut := rfl

/-! ### `State.emit` -/

@[simp] theorem State.emit_csu (s : State) (dst : AddrTag) (p : List Byte) : (s.emit dst p).csu = s.csu := rfl
@[simp] theorem State.emit_fr (s : State) (dst : AddrTag) (p : List Byte) : (s.emit dst p).fr = s.fr := rfl
@[simp] theorem State.emit_dec (s : State) (dst : AddrTag) (p : List Byte) : (s.emit dst p).dec = s.dec := rfl
@[simp] theorem State.emit_cfg (s : State) (dst : AddrTag) (p : List Byte) : (s.emit dst p).cfg = s.cfg := rfl
@[simp] theorem State.emit_stat (s : State) (dst : AddrTag) (p : List Byte) : (s.emit dst p).stat = s.stat := rfl
@[simp] theorem State.emit_time (s : State) (dst : AddrTag) (p : List Byte) : (s.emit dst p).time = s.time := rfl
@[simp] theorem State.emit_snd (s : State) (dst : AddrTag) (p : List Byte) : (s.emit dst p).snd = s.snd := rfl
@[simp] theorem State.emit_rcv (s : State) (dst : AddrTag) (p : List Byte) : (s.emit dst p).rcv = s.rcv := rfl
@[simp] theorem State.emit_pld (s : State) (dst : AddrTag) (p : List Byte) : (s.emit dst p).pld = s.pld := rfl
@[simp] theorem State.emit_txp (s : State) (dst : AddrTag) (p : List Byte) : (s.emit dst p).txp = s.txp := rfl
@[simp] theorem State.emit_rxq (s : State) (dst : AddrTag) (p : List Byte) : (s.emit dst p).rxq = s.rxq := rfl
@[simp] theorem State.emit_tbuf (s : State) (dst : AddrTag) (p : List Byte) : (s.emit dst p).tbuf = s.tbuf := rfl
@[simp] theorem State.emit_abuf (s : State) (dst : AddrTag) (p : List Byte) : (s.emit dst p).abuf = s.abuf := rfl
@[simp] theorem State.emit_port (s : State) (dst : AddrTag) (p : List Byte) : (s.emit dst p).port = s.port := rfl
@[simp] theorem State.emit_params (s : State) (dst : AddrTag) (p : List Byte) : (s.emit dst p).params = s.params := rfl
@[simp] theorem State.emit_epoch (s : State) (dst : AddrTag) (p : List Byte) : (s.emit dst p).epoch = s.epoch := rfl
@[simp] theorem State.emit_sched (s : State) (dst : AddrTag) (p : List Byte) : (s.emit dst p).sched = s.sched := rfl
@[simp] theorem State.emit_netOut (s : State) (dst : AddrTag) (p : List Byte) : (s.emit dst p).netOut = s.netOut ++ [{ tag := dst, bytes := p }] := rfl

/-! ### `State.popRx` -/

@[simp] theorem State.popRx_csu (s : State) : (s.popRx).csu = s.csu := rfl
@[simp] theorem State.popRx_fr (s : State) : (s.popRx).fr = s.fr := rfl
@[simp] theorem State.popRx_dec (s : State) : (s.popRx).dec = s.dec := rfl
@[simp] theorem State.popRx_cfg (s : State) : (s.popRx).cfg = s.cfg := rfl
@[simp] theorem State.popRx_stat (s : State) : (s.popRx).stat = s.stat := rfl
@[simp] theorem State.popRx_time (s : State) : (s.popRx).time = s.time := rfl
@[simp] theorem State.popRx_snd (s : State) : (s.popRx).snd = s.snd := rfl
@[simp] theorem State.popRx_rcv (s : State) : (s.popRx).rcv = s.rcv := rfl
@[simp] theorem State.popRx_pld (s : State) : (s.popRx).pld = s.pld := rfl
@[simp] theorem State.popRx_txp (s : State) : (s.popRx).txp = s.txp := rfl
@[simp] theorem State.popRx_rxq (s : State) : (s.popRx).rxq = s.rxq.tail := rfl
@[simp] theorem State.popRx_tbuf (s : State) : (s.popRx).tbuf = s.tbuf := rfl
@[simp] theorem State.popRx_abuf (s : State) : (s.popRx).abuf = s.abuf := rfl
@[simp] theorem State.popRx_port (s : State) : (s.popRx).port = s.port := rfl
@[simp] theorem State.popRx_params (s : State) : (s.popRx).params = s.params := rfl
@[simp] theorem State.popRx_epoch (s : State) : (s.popRx).epoch = s.epoch := rfl
@[simp] theorem State.popRx_sched (s : State) : (s.popRx).sched = s.sched := rfl
@[simp] theorem State.popRx_netOut (s : State) : (s.popRx).netOut = s.netOut := rfl

/-! ### `State.softReset` -/

@[simp] theorem State.softReset_csu (s : State) : (s.softReset).csu = Csu.reset := rfl
@[simp] theorem State.softReset_fr (s : State) : (s.softReset).fr = FrOps.reset := rfl
@[simp] theorem State.softReset_dec (s : State) : (s.softReset).dec = DecRegs.reset := rfl
@[simp] theorem State.softReset_cfg (s : State) : (s.softReset).cfg = CfgRegs.reset := rfl
@[simp] theorem State.softReset_stat (s : State) : (s.softReset).stat = StatRegs.reset := rfl
@[simp] theorem State.softReset_time (s : State) : (s.softReset).time = s.time := rfl
@[simp] theorem State.softReset_snd (s : State) : (s.softReset).snd = Snd.reset := rfl
@[simp] theorem State.softReset_rcv (s : State) : (s.softReset).rcv = Rcv.reset := rfl
@[simp] theorem State.softReset_pld (s : State) : (s.softReset).pld = s.pld := rfl
@[simp] theorem State.softReset_txp (s : State) : (s.softReset).txp = s.txp := rfl
@[simp] theorem State.softReset_rxq (s : State) : (s.softReset).rxq = [] := rfl
@[simp] theorem State.softReset_tbuf (s : State) : (s.softReset).tbuf = s.tbuf := rfl
@[simp] theorem State.softReset_abuf (s : State) : (s.softReset).abuf = s.abuf := rfl
@[simp] theorem State.softReset_port (s : State) : (s.softReset).port = s.port := rfl
@[simp] theorem State.softReset_params (s : State) : (s.softReset).params = s.params := rfl
@[simp] theorem State.softReset_epoch (s : State) : (s.softReset).epoch = s.epoch := rfl
@[simp] theorem State.softReset_sched (s : State) : (s.softReset).sched = s.sched := rfl
@[simp] theorem State.softReset_netOut (s : State) : (s.softReset).netOut = s.netOut := rfl

/-! ### `State.hardReset` -/

@[simp] theorem State.hardReset_csu (s : State) : (s.hardReset).csu = Csu.reset := rfl
@[simp] theorem State.hardReset_fr (s : State) : (s.hardReset).fr = FrOps.reset := rfl
@[simp] theorem State.hardReset_dec (s : State) : (s.hardReset).dec = DecRegs.reset := rfl
@[simp] theorem State.hardReset_cfg (s : State) : (s.hardReset).cfg = CfgRegs.reset := rfl
@[simp] theorem State.hardReset_stat (s : State) : (s.hardReset).stat = StatRegs.reset := rfl
@[simp] theorem State.hardReset_time (s : State) : (s.hardReset).time = 0 := rfl
@[simp] theorem State.hardReset_snd (s : State) : (s.hardReset).snd = Snd.reset := rfl
@[simp] theorem State.hardReset_rcv (s : State) : (s.hardReset).rcv = Rcv.reset := rfl
@[simp] theorem State.hardReset_pld (s : State) : (s.hardReset).pld = [] := rfl
@[simp] theorem State.hardReset_txp (s : State) : (s.hardReset).txp = [] := rfl
@[simp] theorem State.hardReset_rxq (s : State) : (s.hardReset).rxq = [] := rfl
@[simp] theorem State.hardReset_tbuf (s : State) : (s.hardReset).tbuf = s.tbuf := rfl
@[simp] theorem State.hardReset_abuf (s : State) : (s.hardReset).abuf = s.abuf := rfl
@[simp] theorem State.hardReset_port (s : State) : (s.hardReset).port = s.port := rfl
@[simp] theorem State.hardReset_params (s : State) : (s.hardReset).params = s.params := rfl
@[simp] theorem State.hardReset_epoch (s : State) : (s.hardReset).epoch = s.epoch + 1 := rfl
@[simp] theorem State.hardReset_sched (s : State) : (s.hardReset).sched = s.sched := rfl
@[simp] theorem State.hardReset_netOut (s : State) : (s.hardReset).netOut = s.netOut := rfl

end Sys2Proof.Machine
end

