-- ==== Sys2Proof/Laws/Memory.lean ====
section
/-!
SUPPORT. The laws of memory: a read after a write, and that every memory operation keeps the canonical form.
-/
namespace Sys2Proof.Machine

@[simp] theorem Mem.read?_nil (a : Nat) : Mem.read? [] a = none := rfl

theorem Mem.read?_cons (k : Nat) (v : Byte) (m : Mem) (a : Nat) :
    Mem.read? ((k, v) :: m) a = if k = a then some v else Mem.read? m a := rfl

/-- A read after a write of one byte. -/
theorem Mem.read?_write (m : Mem) (a b : Nat) (v : Byte) :
    Mem.read? (Mem.write m a v) b = if a = b then some v else Mem.read? m b := by
  induction m with
  | nil => simp [Mem.write, Mem.read?]
  | cons kv m ih =>
    obtain ⟨k, w⟩ := kv
    unfold Mem.write
    split
    · simp [Mem.read?]
    · split
      · subst_vars; simp only [Mem.read?]; split <;> rfl
      · simp only [Mem.read?, ih]; split <;> split <;> simp_all

theorem Mem.read?_write_same (m : Mem) (a : Nat) (v : Byte) : Mem.read? (Mem.write m a v) a = some v := by
  simp [Mem.read?_write]

theorem Mem.read?_write_other (m : Mem) {a b : Nat} (v : Byte) (h : a ≠ b) :
    Mem.read? (Mem.write m a v) b = Mem.read? m b := by
  simp [Mem.read?_write, h]

/-- A read after a write of a byte sequence: the sequence's byte inside it, the old one outside. -/
theorem Mem.read?_writeBytes (bs : List Byte) (m : Mem) (a b : Nat) :
    Mem.read? (Mem.writeBytes m a bs) b =
      if a ≤ b ∧ b < a + bs.length then some (bs.getD (b - a) 0) else Mem.read? m b := by
  induction bs generalizing m a with
  | nil => simp [Mem.writeBytes]
  | cons x bs ih =>
    simp only [Mem.writeBytes, ih, Mem.read?_write, List.length_cons]
    by_cases hab : a = b
    · subst hab; simp
    · by_cases h : a + 1 ≤ b ∧ b < a + 1 + bs.length
      · obtain ⟨d, hd⟩ : ∃ d, b - a = d + 1 := ⟨b - a - 1, by omega⟩
        have hd' : b - (a + 1) = d := by omega
        have h' : a ≤ b ∧ b < a + (bs.length + 1) := by omega
        simp only [if_pos h, if_pos h', hd, hd', List.getD_cons_succ]
      · have h' : ¬(a ≤ b ∧ b < a + (bs.length + 1)) := by omega
        simp only [if_neg h, if_neg h', if_neg hab]

/-- A canonical memory stays canonical from a lower bound on. -/
theorem Mem.within_mono {lim lo lo' : Nat} {m : Mem} (h : lo' ≤ lo) :
    Mem.within lim lo m = true → Mem.within lim lo' m = true := by
  cases m with
  | nil => simp [Mem.within]
  | cons kv m =>
    simp only [Mem.within, Bool.and_eq_true, decide_eq_true_eq]
    rintro ⟨⟨h1, h2⟩, h3⟩
    exact ⟨⟨by omega, h2⟩, h3⟩

theorem Mem.within_write {lim : Nat} (a : Nat) (v : Byte) (ha : a < lim) (m : Mem) (lo : Nat) (hlo : lo ≤ a)
    (h : Mem.within lim lo m = true) : Mem.within lim lo (Mem.write m a v) = true := by
  induction m generalizing lo with
  | nil => simp [Mem.write, Mem.within, ha, hlo]
  | cons kv m ih =>
    obtain ⟨k, w⟩ := kv
    simp only [Mem.within, Bool.and_eq_true, decide_eq_true_eq] at h
    obtain ⟨⟨h1, h2⟩, h3⟩ := h
    unfold Mem.write
    split
    · rename_i hlt
      simp only [Mem.within, Bool.and_eq_true, decide_eq_true_eq]
      exact ⟨⟨hlo, ha⟩, ⟨by omega, h2⟩, h3⟩
    · split
      · subst_vars
        simp only [Mem.within, Bool.and_eq_true, decide_eq_true_eq]
        exact ⟨⟨hlo, ha⟩, h3⟩
      · simp only [Mem.within, Bool.and_eq_true, decide_eq_true_eq]
        exact ⟨⟨h1, h2⟩, ih (k + 1) (by omega) h3⟩

/-- A write of one byte inside the space keeps the canonical form. -/
theorem Mem.wf_write {lim a : Nat} {m : Mem} (v : Byte) (ha : a < lim) (h : Mem.wf lim m = true) :
    Mem.wf lim (Mem.write m a v) = true :=
  Mem.within_write a v ha m 0 (Nat.zero_le a) h

/-- A write of a byte sequence inside the space keeps the canonical form. -/
theorem Mem.wf_writeBytes {lim : Nat} (bs : List Byte) (a : Nat) {m : Mem} (ha : a + bs.length ≤ lim)
    (h : Mem.wf lim m = true) : Mem.wf lim (Mem.writeBytes m a bs) = true := by
  induction bs generalizing m a with
  | nil => exact h
  | cons x bs ih =>
    simp only [List.length_cons] at ha
    exact ih (a + 1) (by omega) (Mem.wf_write x (by omega) h)

@[simp] theorem Mem.wf_nil (lim : Nat) : Mem.wf lim [] = true := rfl

@[simp] theorem State.memRead_length (s : State) (sp : Space) (a n : Nat) : (s.memRead sp a n).length = n := by
  simp [State.memRead]

theorem State.memRead_congr {s t : State} {sp : Space} {a n : Nat}
    (h : ∀ i, i < n → s.byteAt sp (a + i) = t.byteAt sp (a + i)) : s.memRead sp a n = t.memRead sp a n := by
  simp only [State.memRead]
  exact List.map_congr_left fun i hi => h i (List.mem_range.mp hi)

/-- Reading back what stands at the addresses: the list whose bytes they are. -/
theorem State.memRead_eq {s : State} {sp : Space} {a : Nat} {bs : List Byte}
    (h : ∀ i, i < bs.length → s.byteAt sp (a + i) = bs.getD i 0) : s.memRead sp a bs.length = bs := by
  apply List.ext_getElem
  · simp
  · intro i h1 h2
    simp only [State.memRead, List.getElem_map, List.getElem_range]
    rw [h i h2, List.getD_eq_getElem bs 0 h2]

end Sys2Proof.Machine
end

