-- ==== Sys2Proof/Laws/Ops.lean ====
section
/-!
SUPPORT. One lemma for each shared operation that says once everything it can do.
-/
namespace Sys2Proof.Machine

/-! ## Completions and faults, in the statements' words -/

@[simp] theorem State.complete_ok (s : State) (rd : Dword) : s.complete .ok rd = s.done rd := rfl

@[simp] theorem State.complete_empty (s : State) : s.complete .empty 0 = s.foundEmpty := rfl

theorem State.raise_eq_faulted (s : State) (f : Status) (cmd : Word) : s.raise f cmd = s.faulted f.code cmd := rfl

/-- What a fault's completion is: the operation's own word is latched. -/
theorem raiseFor_eq (f : Status) (i : Instr) (s : State) : raiseFor f i s = .next (s.faulted f.code (encode i)) := rfl

/-- A memory access goes on exactly when it answers a value. -/
theorem withMem_next {α : Type} {r : Except Fault α} {k : α → Outcome} {t : State} (h : withMem r k = .next t) :
    ∃ a, r = .ok a ∧ k a = .next t := by
  cases r with
  | ok a => exact ⟨a, rfl, h⟩
  | error f => simp [withMem] at h

@[simp] theorem withMem_ok {α : Type} (a : α) (k : α → Outcome) : withMem (.ok a) k = k a := rfl

@[simp] theorem withMem_error {α : Type} (f : Fault) (k : α → Outcome) :
    withMem (.error f : Except Fault α) k = .fault f := rfl

/-! ## Buffers -/

/-- The bytes of RXP never stop the machine. -/
@[simp] theorem State.bufBytes_rxp (s : State) : s.bufBytes .rxp = .ok s.rxpBytes := rfl

theorem State.bufBytes_pld {s : State} (h : s.fr.plen ≤ s.params.rbufCap) :
    s.bufBytes .pld = .ok (s.memRead .pld 0 s.fr.plen) := by
  simp [State.bufBytes, State.bufLen, State.sizeOf, h]

theorem State.bufBytes_txp {s : State} (h : s.fr.txlen ≤ s.params.rbufCap) :
    s.bufBytes .txp = .ok (s.memRead .txp 0 s.fr.txlen) := by
  simp [State.bufBytes, State.bufLen, State.sizeOf, h]

/-- The valid bytes of a buffer are as many as its length register says. -/
theorem State.bufBytes_length {s : State} {sp : Space} {bs : List Byte} (h : s.bufBytes sp = .ok bs) :
    bs.length = s.bufLen sp := by
  unfold State.bufBytes at h
  split at h
  · rename_i hsp
    subst hsp
    cases h
    rfl
  · split at h
    · cases h
      simp
    · cases h

/-- `putTxp` answers a state exactly when the packet fits TXP. -/
theorem State.putTxp_ok {s t : State} {p : List Byte} :
    s.putTxp p = .ok t ↔
      p.length ≤ s.params.rbufCap ∧
        t = { s with txp := Mem.writeBytes s.txp 0 p, fr := { s.fr with txlen := p.length } } := by
  unfold State.putTxp
  split <;> simp_all [eq_comm]

/-- Sending a framed packet: TXP, TXLEN and the TX port, and nothing else. -/
theorem emitFramed_ok {s t : State} {dst : AddrTag} {p : List Byte} :
    emitFramed s dst p = .ok t ↔
      p.length ≤ s.params.rbufCap ∧
        t = { s with
          txp := Mem.writeBytes s.txp 0 p, fr := { s.fr with txlen := p.length }
          netOut := s.netOut ++ [{ tag := dst, bytes := p }] } := by
  unfold emitFramed State.putTxp
  by_cases h : p.length ≤ s.params.rbufCap
  · simp [h, State.emit, eq_comm]
  · simp [h]

/-- A packet that fits is sent. -/
theorem emitFramed_fits {s : State} {dst : AddrTag} {p : List Byte} (h : p.length ≤ s.params.rbufCap) :
    emitFramed s dst p = .ok { s with
      txp := Mem.writeBytes s.txp 0 p, fr := { s.fr with txlen := p.length }
      netOut := s.netOut ++ [{ tag := dst, bytes := p }] } :=
  emitFramed_ok.mpr ⟨h, rfl⟩

theorem State.hostStore_ok {s t : State} {a : Nat} {b : Byte} :
    s.hostStore a b = .ok t ↔ a < Config.tbufSize ∧ t = { s with tbuf := Mem.write s.tbuf a b } := by
  unfold State.hostStore
  split <;> simp_all [eq_comm]

/-- A delivery does one of three things (R60). -/
theorem State.deliver_cases (s : State) (src : AddrTag) (d : List Byte) :
    (s.params.rbufCap < d.length ∧ s.deliver src d = { s with stat := { s.stat with rxbig := true } }) ∨
      (d.length ≤ s.params.rbufCap ∧ s.rxq.length = s.params.rxqDepth ∧
        s.deliver src d = { s with stat := { s.stat with rxovr := true } }) ∨
      (d.length ≤ s.params.rbufCap ∧ s.rxq.length ≠ s.params.rxqDepth ∧
        s.deliver src d = { s with rxq := s.rxq ++ [{ tag := src, bytes := d }] }) := by
  unfold State.deliver
  split
  · exact .inl ⟨by assumption, rfl⟩
  · split
    · exact .inr (.inl ⟨by omega, by assumption, rfl⟩)
    · exact .inr (.inr ⟨by omega, by assumption, rfl⟩)

/-! ## Reading one byte -/

/-- A byte reads the same in two states whose memories, queue and epoch are the same. -/
theorem State.byteAt_congr {s t : State} (h1 : s.pld = t.pld) (h2 : s.txp = t.txp) (h3 : s.rxq = t.rxq)
    (h4 : s.tbuf = t.tbuf) (h5 : s.abuf = t.abuf) (h6 : s.epoch = t.epoch) (sp : Space) (a : Nat) :
    s.byteAt sp a = t.byteAt sp a := by
  cases sp <;> simp [State.byteAt, State.unwritten, State.rxpBytes, *]

theorem State.byteAt_pld (s : State) (a : Nat) :
    s.byteAt .pld a = (Mem.read? s.pld a).getD (Config.unwrittenByte s.epoch .pld a) := rfl

theorem State.byteAt_txp (s : State) (a : Nat) :
    s.byteAt .txp a = (Mem.read? s.txp a).getD (Config.unwrittenByte s.epoch .txp a) := rfl

theorem State.byteAt_tbuf (s : State) (a : Nat) :
    s.byteAt .tbuf a = (Mem.read? s.tbuf a).getD (Config.unwrittenByte 0 .tbuf a) := rfl

theorem State.byteAt_abuf (s : State) (a : Nat) :
    s.byteAt .abuf a = (Mem.read? s.abuf a).getD (Config.unwrittenByte 0 .abuf a) := rfl

/-- A packet written to TXP stands there, and the rest of TXP is as before (20_memory.md R52). -/
theorem State.framedInto_writeBytes {s t : State} {p : List Byte} (h1 : t.txp = Mem.writeBytes s.txp 0 p)
    (h2 : t.fr = { s.fr with txlen := p.length }) (h3 : t.epoch = s.epoch) : s.FramedInto t p := by
  refine ⟨fun a ha => ?_, fun a ha => ?_, h2⟩
  · simp [State.byteAt_txp, h1, Mem.read?_writeBytes, ha]
  · have : ¬a < p.length := by omega
    simp [State.byteAt_txp, h1, h3, Mem.read?_writeBytes, this]

/-- A framed packet reads back from TXP. -/
theorem State.FramedInto.memRead {s t : State} {p : List Byte} (h : s.FramedInto t p) :
    t.memRead .txp 0 p.length = p :=
  State.memRead_eq (by simpa using h.1)

/-! ## Lengths -/

@[simp] theorem be16_length (v : Half) : (be16 v).length = 2 := rfl

@[simp] theorem be32_length (v : Word) : (be32 v).length = 4 := rfl

/-- A packet is its payload and a header (41_framer.md R113 (a)). -/
@[simp] theorem encodePkt_length (seq : Word) (payload : List Byte) (cs : Bool) :
    (encodePkt seq payload cs).length = payload.length + hdr cs := by
  cases cs <;> simp [encodePkt, hdr, Config.hdrCs, Config.hdrLg] <;> omega

theorem hdr_le (cs : Bool) : hdr cs ≤ 6 := by
  cases cs <;> decide

@[simp] theorem ctlAck_length : ctlAck.length = 7 := rfl

@[simp] theorem ctlEnd_length : ctlEnd.length = 7 := rfl

@[simp] theorem ctlEndAck_length : ctlEndAck.length = 10 := rfl

@[simp] theorem isCtl_iff (payload c : List Byte) : isCtl payload c = true ↔ payload = c := by
  simp [isCtl]

/-- The configuration that START accepts has room for every packet a session builds (41_framer.md R119). -/
theorem State.frameTooBig_false {s : State} :
    s.frameTooBig = false ↔ hdr s.cfg.csen + max s.cfg.psize 10 ≤ s.params.rbufCap := by
  rw [State.frameTooBig, decide_eq_false_iff_not, not_lt, Config.ctlMax]

/-- The length of a slice: what is left of the buffer, at most `n` (41_framer.md R126). -/
theorem sliceLen_eq (len n k : Nat) : sliceLen len n k = min n (len - k * n) := by
  unfold sliceLen
  have : (k + 1) * n = k * n + n := by ring
  split <;> omega

@[simp] theorem dataPayload_length (s : State) (k : Nat) :
    (dataPayload s k).length = min s.cfg.psize (s.snd.len.toNat - k * s.cfg.psize) := by
  simp [dataPayload, sliceLen_eq]

/-- A packet number inside u32 stands in the field as it is. -/
theorem seqField_nat {n : Nat} (h : n < 4294967296) : seqField (n : Int) = BitVec.ofNat 32 n := by
  have h' : (0 : Int) ≤ (n : Int) ∧ (n : Int) < 4294967296 := by omega
  unfold seqField
  rw [if_pos h']
  simp

end Sys2Proof.Machine
end

