-- ==== Sys2Proof/Laws/Arq.lean ====
section
/-!
SUPPORT. What each part of the sender and receiver iterations can do, so that proofs about a step need not unfold it.
-/
namespace Sys2Proof.Machine

/-! ## The sender iteration -/

@[simp] theorem sndInbound_none (cs : Bool) (now : Dword) (v : Snd) : sndInbound cs now none v = (v, false) := rfl

/-- Part 1 does one of three things (42_sender_arq.md R135 to R137). -/
theorem sndInbound_some (cs : Bool) (now : Dword) (d : List Byte) (v : Snd) :
    ((decodePkt d cs).status = .ok ∧ (decodePkt d cs).payload = ctlAck ∧
        v.lastAck < ((decodePkt d cs).seq.toNat : Int) ∧
        sndInbound cs now (some d) v = (sndAcked now (decodePkt d cs).seq.toNat v, false)) ∨
      ((decodePkt d cs).status = .ok ∧ (decodePkt d cs).payload = ctlEndAck ∧
        sndInbound cs now (some d) v = (sndEnded false v, true)) ∨
      (((decodePkt d cs).status ≠ .ok ∨
          ((decodePkt d cs).payload = ctlAck ∧ ((decodePkt d cs).seq.toNat : Int) ≤ v.lastAck) ∨
          ((decodePkt d cs).payload ≠ ctlAck ∧ (decodePkt d cs).payload ≠ ctlEndAck)) ∧
        sndInbound cs now (some d) v = (v, false)) := by
  have hne : ctlAck ≠ ctlEndAck := by decide
  by_cases h1 : (decodePkt d cs).status = .ok
  · by_cases h2 : (decodePkt d cs).payload = ctlAck
    · by_cases h3 : v.lastAck < ((decodePkt d cs).seq.toNat : Int)
      · exact .inl ⟨h1, h2, h3, by simp [sndInbound, h1, h2, h3, isCtl]⟩
      · exact .inr (.inr ⟨.inr (.inl ⟨h2, by omega⟩), by simp [sndInbound, h1, h2, h3, isCtl, hne]⟩)
    · by_cases h3 : (decodePkt d cs).payload = ctlEndAck
      · exact .inr (.inl ⟨h1, h3, by simp [sndInbound, h1, h3, isCtl, hne.symm]⟩)
      · exact .inr (.inr ⟨.inr (.inr ⟨h2, h3⟩), by simp [sndInbound, h1, h2, h3, isCtl]⟩)
  · exact .inr (.inr ⟨.inl h1, by simp [sndInbound, h1]⟩)

/-- Part 2 goes back to `window_start`, or does nothing (42_sender_arq.md R138). -/
theorem sndRetransmit_cases (rto : Word) (now : Dword) (v : Snd) :
    sndRetransmit rto now v = v ∨
      ((∃ k, v.toSend = .sending k) ∧
        sndRetransmit rto now v = { v with toSend := .sending v.windowStart, rtxT0 := now }) := by
  unfold sndRetransmit
  split
  · exact .inl rfl
  · split
    · exact .inr ⟨⟨_, by assumption⟩, rfl⟩
    · exact .inl rfl

/-- Part 4 tears down, sends data, or waits (42_sender_arq.md R140 to R143). -/
theorem sndSend_cases (s : State) (now : Dword) (v : Snd) :
    (v.toSend = .tearingDown ∧
        sndSend s now v =
          (sndTornDown now v, some (encodePkt (seqField (v.lastPacket + 1)) ctlEnd s.cfg.csen))) ∨
      (∃ k, v.toSend = .sending k ∧ k < v.windowStart + v.windowSize ∧
        (v.lastPacket = -1 ∨ (k : Int) ≤ v.lastPacket) ∧
        sndSend s now v =
          (sndSent k (decide ((dataPayload s k).length < s.cfg.psize)) v,
            some (encodePkt (seqField k) (dataPayload s k) s.cfg.csen))) ∨
      ((∃ k, v.toSend = .sending k ∧
          ¬(k < v.windowStart + v.windowSize ∧ (v.lastPacket = -1 ∨ (k : Int) ≤ v.lastPacket))) ∧
        sndSend s now v = (v, none)) := by
  unfold sndSend
  split
  · exact .inl ⟨by assumption, rfl⟩
  · rename_i k hk
    split
    · rename_i h
      exact .inr (.inl ⟨k, hk, h.1, h.2, rfl⟩)
    · exact .inr (.inr ⟨⟨k, hk, by assumption⟩, rfl⟩)

/-- What `SND.STEP` does after the iteration: it completes, with or without a packet, or stops because the packet does
not fit TXP. -/
theorem sndFinish_next {rxc : Bool} {r : Snd × Option (List Byte)} {s t : State}
    (h : sndFinish rxc r s = .next t) :
    (r.2 = none ∧
        t = ({ s with snd := r.1 } : State).done (stepResult false rxc r.1.term (sndStateOf r.1).code)) ∨
      (∃ p, r.2 = some p ∧ p.length ≤ s.params.rbufCap ∧
        t = ({ s with
          snd := r.1, txp := Mem.writeBytes s.txp 0 p, fr := { s.fr with txlen := p.length }
          netOut := s.netOut ++ [{ tag := s.cfg.dest, bytes := p }] } : State).done
            (stepResult true rxc r.1.term (sndStateOf r.1).code)) := by
  unfold sndFinish at h
  split at h
  · rename_i hn
    cases h
    exact .inl ⟨hn, rfl⟩
  · rename_i p hp
    obtain ⟨u, hu, h⟩ := withMem_next h
    obtain ⟨hl, rfl⟩ := emitFramed_ok.mp hu
    cases h
    exact .inr ⟨p, hp, hl, rfl⟩

/-! ## The receiver iteration -/

/-- What the receiver does with a valid packet (43_receiver_arq.md R155 to R159). -/
theorem rcvAccept_cases (p : Packet) (s : State) :
    (p.payload = ctlEnd ∧
        rcvAccept p s = ({ s with rcv := { s.rcv with term := true, act := false } },
          if 0 ≤ s.rcv.lastRecvd then some (encodePkt (seqField s.rcv.lastRecvd) ctlEndAck s.cfg.csen) else none)) ∨
      (p.payload ≠ ctlEnd ∧ (p.seq.toNat : Int) = s.rcv.lastRecvd + 1 ∧
        s.params.abufCap < s.rcv.alen + p.payload.length ∧
        rcvAccept p s = ({ s with stat := { s.stat with rOvf := true } }, none)) ∨
      (p.payload ≠ ctlEnd ∧ (p.seq.toNat : Int) = s.rcv.lastRecvd + 1 ∧
        s.rcv.alen + p.payload.length ≤ s.params.abufCap ∧
        rcvAccept p s =
          (rcvAppend p.payload s, some (encodePkt (seqField (s.rcv.lastRecvd + 1)) ctlAck s.cfg.csen))) ∨
      (p.payload ≠ ctlEnd ∧ (p.seq.toNat : Int) ≠ s.rcv.lastRecvd + 1 ∧ rcvAccept p s = (s, none)) := by
  by_cases h1 : p.payload = ctlEnd
  · exact .inl ⟨h1, by simp [rcvAccept, isCtl, h1]⟩
  · by_cases h2 : (p.seq.toNat : Int) = s.rcv.lastRecvd + 1
    · by_cases h3 : s.params.abufCap < s.rcv.alen + p.payload.length
      · exact .inr (.inl ⟨h1, h2, h3, by simp [rcvAccept, isCtl, h1, h2, h3]⟩)
      · exact .inr (.inr (.inl ⟨h1, h2, by omega, by simp [rcvAccept, isCtl, h1, h2, h3]⟩))
    · exact .inr (.inr (.inr ⟨h1, h2, by simp [rcvAccept, isCtl, h1, h2]⟩))

/-- What `RCV.STEP` does after the iteration. -/
theorem rcvFinish_next {dst : AddrTag} {r : State × Option (List Byte)} {t : State}
    (h : rcvFinish dst r = .next t) :
    (r.2 = none ∧ t = r.1.done (stepResult false true r.1.rcv.term (rcvStateOf r.1.rcv).code)) ∨
      (∃ p, r.2 = some p ∧ p.length ≤ r.1.params.rbufCap ∧
        t = ({ r.1 with
          txp := Mem.writeBytes r.1.txp 0 p, fr := { r.1.fr with txlen := p.length }
          netOut := r.1.netOut ++ [{ tag := dst, bytes := p }] } : State).done
            (stepResult true true r.1.rcv.term (rcvStateOf r.1.rcv).code)) := by
  unfold rcvFinish at h
  split at h
  · rename_i hn
    cases h
    exact .inl ⟨hn, rfl⟩
  · rename_i p hp
    obtain ⟨u, hu, h⟩ := withMem_next h
    obtain ⟨hl, rfl⟩ := emitFramed_ok.mp hu
    cases h
    exact .inr ⟨p, hp, hl, rfl⟩

/-! ## The agents -/

/-- AUTO's step is the session's operation with the port put back, or nothing. -/
theorem discardCompletion_next {p : Port} {o : Outcome} {t : State} (h : discardCompletion p o = .next t) :
    ∃ u, o = .next u ∧ t = { u with port := p } := by
  cases o with
  | next u => cases h; exact ⟨u, rfl, rfl⟩
  | fault f => cases h
  | refused r => cases h

end Sys2Proof.Machine
end

