-- ==== Sys2Proof/Laws/Checksum.lean ====
section
/-!
SUPPORT. What the checksum operations answer, as numbers and byte by byte.
-/
namespace Sys2Proof.Machine

/-- Ones-complement addition as a number: a sum that does not fit loses 0xFFFF (40_checksum.md R92). -/
theorem ocAdd_toNat (a b : Half) :
    (ocAdd a b).toNat =
      if a.toNat + b.toNat < 65536 then a.toNat + b.toNat else a.toNat + b.toNat - 65535 := by
  have := a.isLt
  have := b.isLt
  simp only [ocAdd, BitVec.toNat_ofNat]
  split <;> omega

@[simp] theorem wordsOf_nil : wordsOf [] = [] := rfl

@[simp] theorem wordsOf_one (a : Byte) : wordsOf [a] = [BitVec.ofNat 16 (a.toNat * 256)] := rfl

@[simp] theorem wordsOf_cons_cons (a b : Byte) (bs : List Byte) :
    wordsOf (a :: b :: bs) = BitVec.ofNat 16 (a.toNat * 256 + b.toNat) :: wordsOf bs := rfl

/-- The number `0xFFFF - a` is. -/
theorem ffff_sub_toNat (a : Half) : (0xFFFF - a : Half).toNat = 65535 - a.toNat := by
  have := a.isLt
  have h : (0xFFFF : Half).toNat = 65535 := rfl
  rw [BitVec.toNat_sub, h]
  omega

@[simp] theorem Csu.putAll_nil (c : Csu) : c.putAll [] = c := rfl

@[simp] theorem Csu.putAll_cons (c : Csu) (b : Byte) (bs : List Byte) : c.putAll (b :: bs) = (c.put b).putAll bs := rfl

theorem Csu.putAll_append (c : Csu) (as bs : List Byte) : c.putAll (as ++ bs) = (c.putAll as).putAll bs := by
  simp [Csu.putAll]

/-- `put` while no byte waits: the byte waits. -/
theorem Csu.put_even {c : Csu} (h : c.odd = false) (b : Byte) : c.put b = { c with hold := b, odd := true } := by
  simp [Csu.put, h]

/-- `put` while a byte waits: the word is added and no byte waits. -/
theorem Csu.put_odd {c : Csu} (h : c.odd = true) (b : Byte) :
    c.put b = { acc := ocAdd c.acc (BitVec.ofNat 16 (c.hold.toNat * 256 + b.toNat)), odd := false, hold := 0 } := by
  simp [Csu.put, h]

end Sys2Proof.Machine
end

