-- ==== Sys2Proof/Laws/Decode.lean ====
section
/-!
SUPPORT. What the pieces of the decoder and the encoder answer.
-/
namespace Sys2Proof

/-- A row with must-be-zero bits is selected exactly when they are 0. -/
@[simp] theorem mustBeZero_eq_instr {z : Nat} {i j : Instr} : mustBeZero z i = .instr j ↔ z = 0 ∧ i = j := by
  unfold mustBeZero
  split <;> simp [*]

/-- A bit field of a word given as a number below 2^32. -/
theorem bits_ofNat {n : Nat} (hi lo : Nat) (h : n < 4294967296) :
    bits (BitVec.ofNat 32 n) hi lo = n / 2 ^ lo % 2 ^ (hi + 1 - lo) := by
  simp [bits, Nat.mod_eq_of_lt h]

/-- A bit field as the bit vector it is. -/
theorem bits_eq_extractLsb' (w : Word) (hi lo : Nat) : bits w hi lo = (w.extractLsb' lo (hi + 1 - lo)).toNat := by
  simp [bits, BitVec.extractLsb'_toNat, Nat.shiftRight_eq_div_pow]

theorem operandBits_lt (i : Instr) : operandBits i < 16777216 := by
  cases i <;> simp [operandBits] <;> omega

theorem opcodeOf_lt (i : Instr) : opcodeOf i < 256 := by
  cases i <;> simp [opcodeOf]

/-- The number a command word is: opcode in bits 31:24, operand fields below. -/
theorem encode_toNat (i : Instr) : (encode i).toNat = opcodeOf i * 16777216 + operandBits i := by
  have := operandBits_lt i
  have := opcodeOf_lt i
  simp only [encode, BitVec.toNat_ofNat]
  omega

/-- Every bit field of a command word. -/
theorem bits_encode (i : Instr) (hi lo : Nat) :
    bits (encode i) hi lo = (opcodeOf i * 16777216 + operandBits i) / 2 ^ lo % 2 ^ (hi + 1 - lo) := by
  rw [bits, encode_toNat]

end Sys2Proof
end

