-- ==== Sys2Proof/Laws/PerInstr.lean ====
section
/-!
SUPPORT. A statement about each operation as syntax: the opcode of its row stands in bits 31:24 of its command word, and
its operand fields below (30_encoding.md R70, R79).
-/
namespace Sys2Proof.Laws.OpcodeField

/-- The command word's top byte is the row's opcode and its low 24 bits are the operand fields. -/
def Statement (i : Instr) : Prop :=
  (encode i).toNat / 16777216 = opcodeOf i ∧ (encode i).toNat % 16777216 = operandBits i

/-- The statement holds of any operation: the operand fields never reach bit 24. -/
theorem of_encode (i : Instr) : Statement i := by
  have := operandBits_lt i
  unfold Statement
  rw [encode_toNat]
  omega

theorem nop : Statement .nop := of_encode _

theorem sysRst : Statement .sysRst := of_encode _

theorem cfgWr (reg : BitVec 8) : Statement (.cfgWr reg) := of_encode _

theorem cfgRd (reg : BitVec 8) : Statement (.cfgRd reg) := of_encode _

theorem bufWrb (buf : BitVec 4) (addr : BitVec 12) (imm8 : Byte) : Statement (.bufWrb buf addr imm8) := of_encode _

theorem bufRdb (buf : BitVec 4) (addr : BitVec 12) : Statement (.bufRdb buf addr) := of_encode _

theorem csClr : Statement .csClr := of_encode _

theorem csPutb (imm8 : Byte) : Statement (.csPutb imm8) := of_encode _

theorem csPuth (imm16 : Half) : Statement (.csPuth imm16) := of_encode _

theorem csBuf (buf : BitVec 4) : Statement (.csBuf buf) := of_encode _

theorem csGet : Statement .csGet := of_encode _

theorem csVfy : Statement .csVfy := of_encode _

theorem frEnc : Statement .frEnc := of_encode _

theorem frDec (buf : BitVec 4) : Statement (.frDec buf) := of_encode _

theorem netTx : Statement .netTx := of_encode _

theorem netRxpop : Statement .netRxpop := of_encode _

theorem sndStart : Statement .sndStart := of_encode _

theorem sndStep : Statement .sndStep := of_encode _

theorem rcvStart : Statement .rcvStart := of_encode _

theorem rcvStep : Statement .rcvStep := of_encode _

end Sys2Proof.Laws.OpcodeField
end

