-- ==== Sys2Proof/Tests/Slice0.lean ====
section
/-!
SUPPORT. Tests of the model: every expected value is taken from the spec's rules, examples and vectors (the comments name
them). After them, one witness for each obligation with hypotheses.
-/
namespace Sys2Proof.Tests
open Sys2Proof Sys2Proof.Machine

/-! ## Operand checks (30_encoding.md R80, R81) -/

theorem test_wf_bufWrb_rxp : (Instr.bufWrb 2 0 0).wellFormed = false := by decide
theorem test_wf_bufWrb_txp : (Instr.bufWrb 1 5 0xFF).wellFormed = true := by decide
theorem test_wf_bufRdb_reserved : (Instr.bufRdb 3 0).wellFormed = false := by decide
theorem test_wf_bufRdb_rxp : (Instr.bufRdb 2 0).wellFormed = true := by decide
theorem test_wf_csBuf_reserved : (Instr.csBuf 15).wellFormed = false := by decide
theorem test_wf_csBuf_rxp : (Instr.csBuf 2).wellFormed = true := by decide
theorem test_wf_frDec_pld : (Instr.frDec 0).wellFormed = false := by decide
theorem test_wf_frDec_reserved : (Instr.frDec 3).wellFormed = false := by decide
theorem test_wf_frDec_txp : (Instr.frDec 1).wellFormed = true := by decide

/-! ## Decoding: words written out from the formats (30_encoding.md R71 to R79) and the examples of each rule -/

-- Format Z: `cmd[31:24]` the opcode, bits 23:0 zero (R71).
theorem test_decode_nop : decode 0x00000000 = .instr .nop := by decide
theorem test_decode_sysRst : decode 0x01000000 = .instr .sysRst := by decide
theorem test_decode_csClr : decode 0x10000000 = .instr .csClr := by decide
theorem test_decode_csGet : decode 0x14000000 = .instr .csGet := by decide
theorem test_decode_csVfy : decode 0x15000000 = .instr .csVfy := by decide
theorem test_decode_frEnc : decode 0x20000000 = .instr .frEnc := by decide
theorem test_decode_netTx : decode 0x22000000 = .instr .netTx := by decide
theorem test_decode_netRxpop : decode 0x23000000 = .instr .netRxpop := by decide
theorem test_decode_sndStart : decode 0x30000000 = .instr .sndStart := by decide
theorem test_decode_sndStep : decode 0x31000000 = .instr .sndStep := by decide
theorem test_decode_rcvStart : decode 0x38000000 = .instr .rcvStart := by decide
theorem test_decode_rcvStep : decode 0x39000000 = .instr .rcvStep := by decide
-- Format B (R72), H (R73), R (R74); every bit of the field set, and one bit.
theorem test_decode_csPutb : decode 0b00010001_0000000000000000_10110001 = .instr (.csPutb 0xB1) := by decide
theorem test_decode_csPuth : decode 0b00010010_00000000_0100101100101110 = .instr (.csPuth 0x4B2E) := by decide
theorem test_decode_cfgWr : decode 0b00000010_0000000000000000_00011110 = .instr (.cfgWr 0x1E) := by decide
theorem test_decode_cfgRd : decode 0b00000011_0000000000000000_00110001 = .instr (.cfgRd 0x31) := by decide
-- Format U (R75), M (R76), A (R77); `BUF.WRB PLD, 0x3FF, 0xAA` is 0x0403FFAA in 95_test_vectors.md 2.3.
theorem test_decode_csBuf : decode 0b00010011_0010_00000000000000000000 = .instr (.csBuf 2) := by decide
theorem test_decode_frDec : decode 0b00100001_0001_00000000000000000000 = .instr (.frDec 1) := by decide
theorem test_decode_bufWrb : decode 0b00000100_0000_001111111111_10101010 = .instr (.bufWrb 0 0x3FF 0xAA) := by decide
theorem test_decode_bufRdb : decode 0b00000101_0001_000000001001_00000000 = .instr (.bufRdb 1 9) := by decide
-- 95_test_vectors.md 2.3: undefined opcodes and must-be-zero bits.
theorem test_decode_undefined : decode 0x06000000 = .reject .undefinedOpcode := by decide
theorem test_decode_top : decode 0xFF000000 = .reject .undefinedOpcode := by decide
theorem test_decode_nop_bit0 : decode 0x00000001 = .reject .reservedBits := by decide
theorem test_decode_csPuth_bit16 : decode 0x12010000 = .reject .reservedBits := by decide
theorem test_decode_cfgWr_bit8 : decode 0x02000100 = .reject .reservedBits := by decide
theorem test_decode_bufRdb_bit0 : decode 0x05000001 = .reject .reservedBits := by decide
theorem test_table_word : decodeTableWord 32 0x041005FF = some (.bufWrb 1 5 0xFF) := by decide

/-! ## Small states and what to look at -/

/-- What the HOST sees of a step: status and rdata. -/
def seen (o : Outcome) : Option (BitVec 8 × Dword) :=
  match o with
  | .next t => some (t.port.status, t.port.rdata)
  | _ => none

/-- One part of the next state. -/
def after {α : Type} (f : State → α) (o : Outcome) : Option α :=
  match o with
  | .next t => some (f t)
  | _ => none

def withWdata (v : Dword) (s : State) : State := { s with port := { s.port with wdata := v } }

/-- `s` with the datagram `d` from `src` at the head of RXQ. -/
def withRx (src : AddrTag) (d : List Byte) (s : State) : State := { s with rxq := { tag := src, bytes := d } :: s.rxq }

/-- PLD holds `Hell` and PLEN is 4. -/
def hell : State :=
  { State.reset with
    pld := Mem.writeBytes [] 0 [0x48, 0x65, 0x6C, 0x6C], fr := { FrOps.reset with plen := 4 } }

/-- The packet of sequence number 0 and payload `Hell` (41_framer.md R121). -/
def dat0 : List Byte := [0x4B, 0x2E, 0, 0, 0, 0, 0x48, 0x65, 0x6C, 0x6C]

/-- `RDTAck.` under sequence number 0 (95_test_vectors.md 2.2). -/
def ack0 : List Byte := [0xC8, 0x0E, 0, 0, 0, 0, 0x52, 0x44, 0x54, 0x41, 0x63, 0x6B, 0x2E]

/-- `RDTAck.` under sequence number 3 (the same table, A3). -/
def ack3 : List Byte := [0xC8, 0x0B, 0, 0, 0, 3, 0x52, 0x44, 0x54, 0x41, 0x63, 0x6B, 0x2E]

/-- `RDTEnd.` under sequence number 1. -/
def end1 : List Byte := [0xBD, 0x10, 0, 0, 0, 1, 0x52, 0x44, 0x54, 0x45, 0x6E, 0x64, 0x2E]

/-- `RDTEndAck.` under sequence number 0. -/
def endAck0 : List Byte := [0x3E, 0x80, 0, 0, 0, 0, 0x52, 0x44, 0x54, 0x45, 0x6E, 0x64, 0x41, 0x63, 0x6B, 0x2E]

/-- The packet `p` stands in TXP. -/
def txpHolds (p : List Byte) : State :=
  { State.reset with txp := Mem.writeBytes [] 0 p, fr := { FrOps.reset with txlen := p.length } }

/-- The sender of 95_test_vectors.md 2.4: TBUF `Hello, World!`, PSIZE 4, WINDOW 3, RTO 5, KILL 20, CTRL 3, just
started. -/
def sender : State :=
  { State.reset with
    cfg := { CfgRegs.reset with psize := 4, window := 3, rto := 5, kill := 20 }
    tbuf := Mem.writeBytes [] 0 [0x48, 0x65, 0x6C, 0x6C, 0x6F, 0x2C, 0x20, 0x57, 0x6F, 0x72, 0x6C, 0x64, 0x21]
    snd := { Snd.reset with act := true, windowSize := 3, len := 13 } }

/-- The same with packets 0 to 2 sent, at TIME 3 (the state of SV4). -/
def senderFull : State := { sender with time := 3, snd := { sender.snd with toSend := .sending 3 } }

/-- The same with everything below `ws` acknowledged and packet `k` next (`senderShort 2 3` is SV2 after its ACK). -/
def senderShort (ws k : Nat) : State :=
  { sender with
    time := 3
    snd := { sender.snd with windowStart := ws, toSend := .sending k, lastAck := (ws : Int) - 1, rtxT0 := 2 } }

/-- The same with the final packet found and the ACK of it at the head of RXQ (the state of SV15, at TIME 7). -/
def senderLast : State :=
  withRx 0 ack3 { sender with
    time := 7
    snd := { sender.snd with
      windowStart := 3, toSend := .sending 4, lastAck := 2, lastPacket := 3, windowSize := 1, rtxT0 := 6 } }

/-- The same after an ACK beyond the final packet (the state SV13 leaves). -/
def senderBeyond : State :=
  { sender with
    time := 3
    snd := { sender.snd with
      windowStart := 10, toSend := .sending 4, lastAck := 9, lastPacket := 3, windowSize := 0, rtxT0 := 3 } }

/-- The same in teardown (the state of SV9, at TIME 30). -/
def senderEnding : State :=
  { sender with
    time := 30
    snd := { sender.snd with
      windowStart := 4, toSend := .tearingDown, lastAck := 3, lastPacket := 3, windowSize := 1, rtxT0 := 10
      tdT0 := 10, tdValid := true } }

/-- The receiver of 95_test_vectors.md 2.5, just started. -/
def receiver : State :=
  { State.reset with cfg := { CfgRegs.reset with psize := 4 }, rcv := { Rcv.reset with act := true } }

/-! ## One step of each operation -/

theorem test_reset_memory_wf : Mem.wf State.reset.params.rbufCap State.reset.pld = true := by decide

-- R164.
theorem test_nop : seen (exec .nop sender) = some (0, 0) := by decide
-- R165's example: in the middle of a session, then STATUS reads 0 and S_LASTACK all ones.
theorem test_sysRst : after (fun t => (readReg t .status, readReg t .sLastack)) (exec .sysRst sender) =
    some (0, 0xFFFFFFFFFFFFFFFF) := by decide
-- 95_test_vectors.md 2.3: the top of PSIZE's range, and one above it.
theorem test_cfgWr_psize : after (fun t => (t.cfg.psize, t.port.status)) (exec (.cfgWr 1) (withWdata 0x3FC State.reset)) =
    some (1020, 0x00) := by decide
theorem test_cfgWr_psize_above : seen (exec (.cfgWr 1) (withWdata 0x3FD State.reset)) = some (0x83, 0) := by decide
-- 95_test_vectors.md 2.3.
theorem test_cfgRd_ctrl : seen (exec (.cfgRd 0) State.reset) = some (0, 3) := by decide
theorem test_cfgRd_undefined : after (fun t => (t.stat.errcode, t.stat.errcmd)) (exec (.cfgRd 0x1F) State.reset) =
    some (0x81, 0x0300001F) := by decide
-- R168's example, and 95_test_vectors.md 2.3: `addr = RBUF_CAP`.
theorem test_bufWrb : after (fun t => Mem.read? t.txp 5) (exec (.bufWrb 1 5 0xFF) State.reset) = some (some 0xFF) := by
  decide
theorem test_bufWrb_beyond : seen (exec (.bufWrb 0 0x400 0) State.reset) = some (0x84, 0) := by decide
-- R169's examples.
theorem test_bufRdb : seen (exec (.bufRdb 1 1) (txpHolds dat0)) = some (0, 0x2E) := by decide
theorem test_bufRdb_rxp_empty : seen (exec (.bufRdb 2 0) State.reset) = some (0x84, 0) := by decide
-- 95_test_vectors.md 2.1, streaming.
theorem test_csClr : after (·.csu.get) (exec .csClr { State.reset with csu := { acc := 7, odd := true, hold := 9 } }) =
    some 0xFFFF := by decide
theorem test_csPutb : after (fun t => (t.csu.acc, t.csu.odd)) (exec (.csPutb 0x34)
    { State.reset with csu := { acc := 0, odd := true, hold := 0x12 } }) = some (0x1234, false) := by decide
theorem test_csPuth_straddles : after (fun t => (readReg t .csAcc, readReg t .csOdd)) (exec (.csPuth 0x3456)
    { State.reset with csu := { acc := 0, odd := true, hold := 0x12 } }) = some (0x1234, 0x5601) := by decide
theorem test_csPuth_carry : after (·.csu.acc) (exec (.csPuth 0x0002)
    { State.reset with csu := { acc := 0xFFFE, odd := false, hold := 0 } }) = some 0x0001 := by decide
-- R104's example: the residue of an intact packet is 0.
theorem test_csBuf : after (·.csu.get) (exec (.csBuf 1) (txpHolds dat0)) = some 0 := by decide
-- R102's example: the pad byte is the low byte of the last word.
theorem test_csGet : seen (exec .csGet { State.reset with csu := { acc := 0x1234, odd := true, hold := 0x56 } }) =
    some (0, 0x97CB) := by decide
-- R106's corner cases: nothing absorbed, and the bytes FF FF.
theorem test_csVfy_empty : seen (exec .csVfy State.reset) = some (0, 0) := by decide
theorem test_csVfy_ffff : seen (exec .csVfy { State.reset with csu := { acc := 0xFFFF, odd := false, hold := 0 } }) =
    some (0, 1) := by decide
-- R121's example, and the legacy packet of 95_test_vectors.md P2.
theorem test_frEnc : after (fun t => (t.memRead .txp 0 10, t.port.rdata)) (exec .frEnc hell) = some (dat0, 10) := by
  decide
theorem test_frEnc_legacy : after (fun t => t.memRead .txp 0 8) (exec .frEnc
    { hell with cfg := { hell.cfg with ctrl := 2 } }) = some [0, 0, 0, 0, 0x48, 0x65, 0x6C, 0x6C] := by decide
-- R122's example: one bit inverted; and 95_test_vectors.md 2.2: comparison rejects what the residue accepts.
theorem test_frDec_badsum : after (fun t => (t.port.rdata, t.dec)) (exec (.frDec 1)
    (txpHolds [0x4B, 0x2E, 0, 0, 0, 0, 0x48, 0x64, 0x6C, 0x6C])) =
    some (1, { stat := .badsum, seq := 0, plen := 4, poff := 6, csum := 0x4B2E }) := by decide
theorem test_frDec_residue : seen (exec (.frDec 2)
    (withRx 0 [0xFF, 0xFF, 0xFF, 0xFF, 0xFF, 0xFF, 0xFF, 0xFF] State.reset)) = some (0, 1) := by decide
-- R123's example, R124's example, and 95_test_vectors.md 2.3.
theorem test_netTx : after (·.netOut) (exec .netTx (txpHolds dat0)) = some [{ tag := 0, bytes := dat0 }] := by decide
theorem test_netRxpop : after (fun t => (readReg t .rxcnt, readReg t .rxlen)) (exec .netRxpop
    (withRx 1 dat0 (withRx 2 ack0 State.reset))) = some (1, 13) := by decide
theorem test_netRxpop_empty : seen (exec .netRxpop State.reset) = some (0x01, 0) := by decide
-- 95_test_vectors.md P3 and 2.3.
theorem test_sndStart : after (fun t => (readReg t .sState, readReg t .sWsize, readReg t .status)) (exec .sndStart
    (withWdata 13 { sender with snd := Snd.reset })) = some (1, 3, 0x10) := by decide
theorem test_sndStart_unconfigured : seen (exec .sndStart (withWdata 5 State.reset)) = some (0x83, 0) := by decide
-- 95_test_vectors.md SV1 and SV20 (an ACK and an elapsed time-out in one step).
theorem test_sndStep_first : after (fun t => (t.netOut, t.port.rdata, t.snd.toSend)) (exec .sndStep sender) =
    some ([{ tag := 0, bytes := dat0 }], 0x101, .sending 1) := by decide
theorem test_sndStep_ack : after (fun t => (t.port.rdata, t.snd)) (exec .sndStep
    (withRx 0 ack0 { senderFull with time := 9 })) =
    some (0x203, { sender.snd with
      windowStart := 1, toSend := .sending 4, lastAck := 0, lastPacket := 3, rtxT0 := 9 }) := by decide
-- R151's example and 95_test_vectors.md 2.3.
theorem test_rcvStart : after (fun t => (readReg t .rState, readReg t .rLastrecvd)) (exec .rcvStart State.reset) =
    some (1, 0xFFFFFFFFFFFFFFFF) := by decide
theorem test_rcvStart_twice : seen (exec .rcvStart receiver) = some (0x85, 0) := by decide
-- R153's example, and 95_test_vectors.md RV5 (teardown before any data, its number not looked at).
theorem test_rcvStep : after (fun t => (t.netOut, t.memRead .abuf 0 4, t.rcv, t.port.rdata)) (exec .rcvStep
    (withRx 0x0A0000010FA0 dat0 receiver)) =
    some ([{ tag := 0x0A0000010FA0, bytes := ack0 }], [0x48, 0x65, 0x6C, 0x6C],
      { receiver.rcv with lastRecvd := 0, alen := 4, peer := 0x0A0000010FA0 }, 0x103) := by decide
theorem test_rcvStep_end : after (fun t => (t.netOut, t.rcv.term, t.port.rdata)) (exec .rcvStep
    (withRx 0xA0000011F90 end1 receiver)) = some ([], true, 0x206) := by decide
-- R170 through the whole step: the command word is latched.
theorem test_step_illegal : after (fun t => (t.stat.err, t.stat.errcode, t.stat.errcmd))
    (step (State.reset.withFetchWord 32 0x13300000)) = some (true, 0x80, 0x13300000) := by decide
theorem test_step_runs : after (fun t => (t.port.status, t.csu.odd)) (step (State.reset.withFetchWord 32 0x11000048)) =
    some (0, true) := by decide

/-! ## Witnesses: a concrete case that meets the hypotheses of each statement, one for each clause -/

/-- `s` with the event `e` next. -/
def withNext (e : Event) (s : State) : State := { s with sched := [e] }

theorem witness_EncodeDecodeRoundTrip : decode 0x041005FF = .instr (.bufWrb 1 5 0xFF) := by decide

theorem witness_DecodeSelectsTheMatchingRow :
    (0x0510FF00 : Word) &&& 0xFF0000FF = 0x05000000 ∧ (0x0510FF01 : Word) &&& 0xFF0000FF ≠ 0x05000000 := by decide

theorem no_encoding_of_undefined_opcode (i : Instr) : encode i ≠ 0x06000000 := by
  intro h
  have h' : opcodeOf i * 16777216 + operandBits i = 100663296 := by rw [← encode_toNat, h]; rfl
  have := operandBits_lt i
  have h6 : opcodeOf i = 6 := by omega
  cases i <;> simp [opcodeOf] at h6

theorem no_encoding_of_reserved_bit (i : Instr) : encode i ≠ 0x10000001 := by
  intro h
  have h' : opcodeOf i * 16777216 + operandBits i = 268435457 := by rw [← encode_toNat, h]; rfl
  have := operandBits_lt i
  have h16 : opcodeOf i = 16 := by omega
  have h1 : operandBits i = 1 := by omega
  cases i <;> simp [opcodeOf, operandBits] at h16 h1

theorem witness_UnmatchedCommandRaisesIllegalCmd :
    ((withNext (.host 0x06000000 0) State.reset).sched = .host 0x06000000 0 :: [] ∧ ∀ i, encode i ≠ 0x06000000) ∧
      ((withNext (.host 0x10000001 0) State.reset).sched = .host 0x10000001 0 :: [] ∧ ∀ i, encode i ≠ 0x10000001) :=
  ⟨⟨rfl, no_encoding_of_undefined_opcode⟩, ⟨rfl, no_encoding_of_reserved_bit⟩⟩

theorem witness_StepRunsTheDecodedOperation :
    (withNext (.host 0x31000000 0) sender).sched = .host 0x31000000 0 :: [] ∧
      decode 0x31000000 = .instr .sndStep := by decide

/-- RXQ_DEPTH 1 and RBUF_CAP 16: the smallest block. -/
def small : State := { State.reset with params := { Config.defaultParams with rbufCap := 16, rxqDepth := 1 } }

theorem witness_NetInDeliversOrDrops :
    small.params.rbufCap < (List.replicate 17 (0 : Byte)).length ∧
      ((List.replicate 16 (0 : Byte)).length ≤ small.params.rbufCap ∧
        (withRx 0 [] small).rxq.length = small.params.rxqDepth) ∧
      ((List.replicate 16 (0 : Byte)).length ≤ small.params.rbufCap ∧ small.rxq.length ≠ small.params.rxqDepth) := by
  decide

theorem witness_TickAddsOneToTime :
    (withNext .tick { State.reset with time := 0xFFFFFFFFFFFFFFFF }).sched = .tick :: [] := by decide

theorem witness_HardwareResetGivesTheResetState : (withNext .hwReset sender).sched = .hwReset :: [] := by decide

/-- The sender and the receiver with AUTO on. -/
def autoSender : State := { sender with cfg := { sender.cfg with ctrl := 7 } }
def autoReceiver : State := withRx 1 dat0 { receiver with cfg := { receiver.cfg with ctrl := 7 } }

theorem witness_AutoStepsTheActiveSession :
    (autoSender.cfg.ctrl.getLsbD 2 = true ∧ autoSender.snd.act = true ∧
        ∃ t, exec .sndStep { withNext .auto autoSender with sched := [] } = .next t) ∧
      (autoReceiver.cfg.ctrl.getLsbD 2 = true ∧ autoReceiver.snd.act = false ∧ autoReceiver.rcv.act = true ∧
        autoReceiver.rxq ≠ [] ∧ ∃ t, exec .rcvStep { withNext .auto autoReceiver with sched := [] } = .next t) ∧
      sender.cfg.ctrl.getLsbD 2 = false ∧ (State.reset.snd.act = false ∧ State.reset.rcv.act = false) :=
  ⟨⟨by decide, by decide, ⟨_, rfl⟩⟩, ⟨by decide, by decide, by decide, by decide, ⟨_, rfl⟩⟩, by decide, by decide⟩

theorem autoSender_legal : (withNext .auto autoSender).Legal := by
  refine ⟨by decide, ⟨by decide, by decide, by decide, by decide⟩,
    ⟨by decide, by decide, by decide, by decide, by decide, by decide⟩, ⟨by decide, by decide⟩,
    ⟨by decide, by decide, by decide, by decide⟩,
    ⟨by decide, by decide, by decide, by decide, by decide, by decide, by decide, ?_⟩,
    ⟨by decide, by decide, by decide, by decide, ?_, by decide, by decide, by decide⟩⟩
  · refine fun _ => ⟨by decide, .inl fun j hj => ?_, fun _ => ⟨by decide, fun k hk => ?_⟩⟩
    · change (j : Int) < -1 at hj
      omega
    · cases hk
      decide
  · intro k hk
    cases hk
    decide

theorem witness_AutoNeverFaults : (withNext .auto autoSender).sched = .auto :: [] ∧ (withNext .auto autoSender).Legal :=
  ⟨rfl, autoSender_legal⟩

theorem witness_OcSumIsPlainSumModuloFfff : plainSum [0, 0, 0] = 0 ∧ plainSum [0xFF, 0xFF, 0, 1] ≠ 0 := by decide

theorem witness_OcAddLaws : (1 : Half) ≠ 0 ∧ ([0x01, 0xFE] : List Byte).length % 2 = 0 := by decide

theorem witness_SingleBitErrorIsDetected : 5 < ([] : List Byte).length + 6 ∧ 7 < 8 := by decide

theorem witness_PacketCodecRoundTrip :
    (decodePkt dat0 true).status = .ok ∧ (decodePkt [0, 0, 0, 7] false).status = .ok := by decide

theorem witness_ResidueAcceptsOneFamilyMore :
    6 ≤ ([0xFF, 0xFF, 0xFF, 0xFE, 0, 1] : List Byte).length ∧
      (decodePkt [0xFF, 0xFF, 0, 0, 0, 0] true).status = .ok ∧
      fromBe (([0xFF, 0xFF, 0xFF, 0xFE, 0, 1] : List Byte).take 2) = 65535 ∧
      ocSum (([0xFF, 0xFF, 0xFF, 0xFE, 0, 1] : List Byte).drop 2) = 0xFFFF := by decide

theorem witness_DataPacketsCutTheTransferBuffer :
    1 ≤ sender.cfg.psize ∧ 2 < sender.snd.len.toNat / sender.cfg.psize := by decide

/-- Each writable register at the top of its range, and PSIZE at the bottom. -/
theorem witness_CfgWrIsReadBack :
    ∀ p ∈ ([(0, 7), (1, 1), (1, 1020), (2, 0xFFFFFFFF), (3, 0xFFFFFFFF), (4, 0xFFFFFFFF), (5, 0xFFFFFFFFFFFF),
        (6, 0xFFFFFFFF), (7, 1024), (8, 1024)] : List (BitVec 8 × Dword)),
      p.1.toNat ≤ 8 ∧ p.2.toNat = (withWdata p.2 State.reset).port.wdata.toNat ∧
        (p.1.toNat ≤ 5 → State.reset.snd.act = false ∧ State.reset.rcv.act = false) ∧
        (p.1 = 0 → p.2.toNat ≤ 7) ∧ (p.1 = 1 → 1 ≤ p.2.toNat ∧ p.2.toNat ≤ State.reset.params.rbufCap - 4) ∧
        (p.1 = 2 ∨ p.1 = 3 ∨ p.1 = 4 ∨ p.1 = 6 → p.2.toNat ≤ 4294967295) ∧
        (p.1 = 5 → p.2.toNat ≤ 281474976710655) ∧
        (p.1 = 7 ∨ p.1 = 8 → p.2.toNat ≤ State.reset.params.rbufCap) := by
  intro p hp
  fin_cases hp <;> decide

/-- A number of each refused kind, and a value just outside each range. -/
theorem witness_CfgWrRefusalsInOrder :
    (0x09 ≤ (0x0F : BitVec 8).toNat ∧ (0x0F : BitVec 8).toNat ≤ 0x0F ∧ 0x34 ≤ (0xFF : BitVec 8).toNat) ∧
      (0x11 ≤ (0x1A : BitVec 8).toNat ∧ (0x1A : BitVec 8).toNat ≤ 0x1A ∧
        0x30 ≤ (0x33 : BitVec 8).toNat ∧ (0x33 : BitVec 8).toNat ≤ 0x33) ∧
      ((5 : BitVec 8).toNat ≤ 5 ∧ (sender.snd.act = true ∨ sender.rcv.act = true)) ∧
      ((1 : BitVec 8).toNat ≤ 8 ∧ (State.reset.snd.act = false ∧ State.reset.rcv.act = false) ∧
        State.reset.params.rbufCap - 4 < (1021 : Dword).toNat ∧ 4294967296 ≤ (0x100000000 : Dword).toNat ∧
        281474976710656 ≤ (0x1000000000000 : Dword).toNat ∧ State.reset.params.rbufCap < (1025 : Dword).toNat) := by
  decide

theorem witness_CfgRdReadsOrRefuses : regOf 0x33 = some .rPeer ∧ regOf 0x1F = none := by decide

theorem witness_SessionReadOut :
    (State.reset.snd.lastAck = -1 ∧ State.reset.snd.lastPacket = -1 ∧ State.reset.rcv.lastRecvd = -1) ∧
      (senderEnding.snd.lastAck = (3 : Nat) ∧ senderEnding.snd.lastPacket = (3 : Nat)) ∧
      ({ Rcv.reset with lastRecvd := 4294967295 } : Rcv).lastRecvd = (4294967295 : Nat) ∧
      senderEnding.snd.toSend = .tearingDown ∧ sender.snd.toSend = .sending 0 ∧
      (State.reset.rcv.act = false ∧ State.reset.rcv.term = false) ∧
      (receiver.rcv.act = true ∧ receiver.rcv.term = false) ∧
      (({ Rcv.reset with term := true } : Rcv).act = false ∧ ({ Rcv.reset with term := true } : Rcv).term = true) := by
  decide

theorem witness_RegistersReadZeroExtended :
    (withRx 1 dat0 State.reset).rxq.length < 65536 ∧ State.reset.rxq = [] ∧
      (withRx 1 dat0 State.reset).rxq = { tag := 1, bytes := dat0 } :: [] ∧ State.reset.csu.odd = false ∧
      ({ acc := 0, odd := true, hold := 0xFF } : Csu).odd = true := by decide

theorem witness_BufWrbWritesOneByte :
    ((0 : BitVec 4) = 0 ∧ Space.pld = .pld) ∧ ((1 : BitVec 4) = 1 ∧ Space.txp = .txp) ∧
      (0x3FF : BitVec 12).toNat < State.reset.params.rbufCap := by decide

theorem witness_BufRdbReadsOneByte :
    (0x3FF : BitVec 12).toNat < State.reset.params.rbufCap ∧
      (withRx 1 dat0 State.reset).rxq = { tag := 1, bytes := dat0 } :: [] ∧
      dat0[(9 : BitVec 12).toNat]? = some 0x6C := by decide

theorem witness_BufferOperandFaults :
    ((1 : BitVec 4).toNat < 2 ∧ State.reset.params.rbufCap ≤ (0x400 : BitVec 12).toNat) ∧
      (∀ d ∈ (withRx 1 dat0 State.reset).rxq.head?, d.bytes.length ≤ (10 : BitVec 12).toNat) ∧
      (∀ d ∈ State.reset.rxq.head?, d.bytes.length ≤ (0 : BitVec 12).toNat) ∧
      2 ≤ (2 : BitVec 4).toNat ∧ 3 ≤ (3 : BitVec 4).toNat ∧ ((0 : BitVec 4).toNat = 0 ∧ 3 ≤ (15 : BitVec 4).toNat) := by
  decide

theorem absorbed_even : Csu.Absorbed { acc := 0x1234, odd := false, hold := 0 } [0x12, 0x34] :=
  ⟨by decide, by decide, by decide⟩

theorem absorbed_odd : Csu.Absorbed { acc := 0x1234, odd := true, hold := 0x56 } [0x12, 0x34, 0x56] :=
  ⟨by decide, by decide, by decide⟩

theorem witness_CsPutAbsorbsBytes :
    Csu.Absorbed { acc := 0x1234, odd := false, hold := 0 } [0x12, 0x34] ∧
      Csu.Absorbed { acc := 0x1234, odd := true, hold := 0x56 } [0x12, 0x34, 0x56] :=
  ⟨absorbed_even, absorbed_odd⟩

theorem witness_CsBufAbsorbsTheBuffer :
    hell.fr.plen ≤ hell.params.rbufCap ∧ (txpHolds dat0).fr.txlen ≤ (txpHolds dat0).params.rbufCap ∧
      ((withRx 1 dat0 State.reset).rxq.head?.map (·.bytes)).getD [] = dat0 ∧
      Csu.Absorbed { acc := 0x1234, odd := true, hold := 0x56 } [0x12, 0x34, 0x56] :=
  ⟨by decide, by decide, by decide, absorbed_odd⟩

theorem witness_CsGetAndVfyReadTheSum :
    Csu.Absorbed ({ State.reset with csu := { acc := 0x1234, odd := true, hold := 0x56 } } : State).csu
      [0x12, 0x34, 0x56] := absorbed_odd

theorem witness_ClearPutsGetReturnsTheChecksum :
    ({ State.reset with
      sched := issue .csClr 0 :: (csPuts [0x12, 0x34, 0x56] ++ issue .csGet 0 :: []) } : State).sched =
        issue .csClr 0 :: (csPuts [0x12, 0x34, 0x56] ++ issue .csGet 0 :: []) := rfl

theorem witness_PldLoadStagesThePayload :
    State.reset.params.Legal ∧ [0x48, 0x65, (0x6C : Byte)].length ≤ State.reset.params.rbufCap ∧
      ({ State.reset with sched := pldLoad [0x48, 0x65, 0x6C] ++ [] } : State).sched = pldLoad [0x48, 0x65, 0x6C] ++ [] :=
  ⟨by decide, by decide, rfl⟩

/-- PLEN at both ends: the largest payload that still fits with its header, and one byte more. -/
theorem witness_FrEncFramesThePayload :
    (∀ s ∈ [{ hell with fr := { hell.fr with plen := 1018 } }],
      s.fr.plen ≤ s.params.rbufCap ∧ hdr s.cfg.csen + s.fr.plen ≤ s.params.rbufCap) ∧
    (∀ s ∈ [{ hell with fr := { hell.fr with plen := 1019 } }],
      s.fr.plen ≤ s.params.rbufCap ∧ s.params.rbufCap < hdr s.cfg.csen + s.fr.plen) := by decide

theorem witness_FrDecShowsThePacket :
    (txpHolds dat0).fr.txlen ≤ (txpHolds dat0).params.rbufCap ∧
      (withRx 1 dat0 State.reset).rxq = { tag := 1, bytes := dat0 } :: [] := by decide

theorem witness_FrDecUndoesFrEnc : hdr hell.cfg.csen + hell.fr.plen ≤ hell.params.rbufCap := by decide

theorem witness_NetTxEmitsAndNetRxpopDrops :
    (txpHolds dat0).fr.txlen ≤ (txpHolds dat0).params.rbufCap ∧
      (withRx 1 dat0 (withRx 2 ack0 State.reset)).rxq =
        { tag := 1, bytes := dat0 } :: { tag := 2, bytes := ack0 } :: [] := by decide

theorem witness_EmptyQueueChangesNothing :
    receiver.rxq = [] ∧ receiver.rcv.act = true ∧ State.reset.rcv.act = false ∧ ∃ t, exec .sndStep sender = .next t :=
  ⟨by decide, by decide, by decide, ⟨_, rfl⟩⟩

/-- `sender`'s configuration with no session. -/
def ready : State := { sender with snd := Snd.reset }

theorem witness_SndStartCreatesOrRefuses :
    1 ≤ ready.cfg.psize ∧ (sender.snd.act = true ∨ sender.rcv.act = true) ∧
      (ready.snd.act = false ∧ ready.rcv.act = false ∧ 4294967296 ≤ (withWdata 0x100000000 ready).port.wdata.toNat) ∧
      (ready.cfg.ctrl.getLsbD 1 = true ∧ ({ ready.cfg with kill := 5 } : CfgRegs).kill.toNat ≤ ready.cfg.rto.toNat) ∧
      ((withWdata 0xFFFFFFFF ready).port.wdata.toNat < 4294967296 ∧ ready.cfg.window ≠ 0 ∧ ready.cfg.rto ≠ 0 ∧
        ready.cfg.rto.toNat < ready.cfg.kill.toNat ∧
        (if ready.cfg.ctrl.getLsbD 0 then 6 else 4) + max ready.cfg.psize 10 ≤ ready.params.rbufCap ∧
        (withWdata 0xFFFFFFFF ready).port.wdata.toNat / ready.cfg.psize ≤ 4294967294) := by decide

theorem witness_SndStepSendsTheNextPacket :
    ∃ payload, sender.snd.act = true ∧ sender.snd.term = false ∧ sender.frameTooBig = false ∧ sender.rxq = [] ∧
      sender.snd.toSend = .sending 0 ∧ sender.snd.tdValid = false ∧
      sender.time.toNat ≤ sender.snd.rtxT0.toNat + sender.cfg.rto.toNat ∧
      0 < sender.snd.windowStart + sender.snd.windowSize ∧ sender.snd.lastPacket = -1 ∧
      payload = sender.memRead .tbuf (0 * sender.cfg.psize)
        (min sender.cfg.psize (sender.snd.len.toNat - 0 * sender.cfg.psize)) :=
  ⟨_, by decide, by decide, by decide, by decide, by decide, by decide, by decide, by decide, by decide, rfl⟩

/-- The final packet, whose payload is short (R126: K = 3, one byte), and the packet 6 that a time-out comes to after an
early ACK of number 5 (assumption 17), whose payload is empty. -/
theorem witness_SndStepSendsTheNextPacket_short :
    (senderShort 2 3).snd.act = true ∧ (senderShort 2 3).snd.term = false ∧ (senderShort 2 3).frameTooBig = false ∧
      (senderShort 2 3).rxq = [] ∧ (senderShort 2 3).snd.tdValid = false ∧
      (senderShort 2 3).time.toNat ≤ (senderShort 2 3).snd.rtxT0.toNat + (senderShort 2 3).cfg.rto.toNat ∧
      (3 < (senderShort 2 3).snd.windowStart + (senderShort 2 3).snd.windowSize ∧ (senderShort 2 3).snd.lastPacket = -1 ∧
        min (senderShort 2 3).cfg.psize ((senderShort 2 3).snd.len.toNat - 3 * (senderShort 2 3).cfg.psize) = 1) ∧
      (6 < (senderShort 6 6).snd.windowStart + (senderShort 6 6).snd.windowSize ∧ (senderShort 6 6).snd.lastPacket = -1 ∧
        min (senderShort 6 6).cfg.psize ((senderShort 6 6).snd.len.toNat - 6 * (senderShort 6 6).cfg.psize) = 0) := by
  decide

/-- At `elapsed = RTO` no time-out is due (SV7). -/
theorem witness_SndStepWaitsForAcks :
    senderFull.snd.act = true ∧ senderFull.snd.term = false ∧ senderFull.rxq = [] ∧
      senderFull.snd.toSend = .sending 3 ∧ senderFull.snd.tdValid = false ∧
      (5 : Dword).toNat ≤ senderFull.snd.rtxT0.toNat + senderFull.cfg.rto.toNat ∧
      senderFull.snd.windowStart + senderFull.snd.windowSize ≤ 3 := by decide

theorem witness_SndStepAppliesAnAckFirst :
    ∃ t, (withRx 0 ack0 senderFull).snd.act = true ∧
      (withRx 0 ack0 senderFull).rxq = { tag := 0, bytes := ack0 } :: [] ∧
      (decodePkt ack0 senderFull.cfg.csen).status = .ok ∧
      (decodePkt ack0 senderFull.cfg.csen).payload = [0x52, 0x44, 0x54, 0x41, 0x63, 0x6B, 0x2E] ∧
      (decodePkt ack0 senderFull.cfg.csen).seq.toNat = 0 ∧ senderFull.snd.lastAck < ((0 : Nat) : Int) ∧
      exec .sndStep { senderFull with
        rxq := [], snd := { senderFull.snd with windowStart := 1, lastAck := 0, rtxT0 := 3 } } = .next t :=
  ⟨_, by decide, by decide, by decide, by decide, by decide, by decide, rfl⟩

/-- A bad checksum (SV4), an ACK already had (SV2), and a data packet (SV16). -/
theorem witness_SndStepIgnoresOtherDatagrams :
    (decodePkt (ack0.set 1 0x0F) true).status ≠ .ok ∧
      ((decodePkt ack0 true).payload = [0x52, 0x44, 0x54, 0x41, 0x63, 0x6B, 0x2E] ∧
        ((decodePkt ack0 true).seq.toNat : Int) ≤ 0) ∧
      ((decodePkt dat0 true).payload ≠ [0x52, 0x44, 0x54, 0x41, 0x63, 0x6B, 0x2E] ∧
        (decodePkt dat0 true).payload ≠ [0x52, 0x44, 0x54, 0x45, 0x6E, 0x64, 0x41, 0x63, 0x6B, 0x2E]) ∧
      (withRx 0 dat0 senderFull).snd.act = true ∧ ∃ t, exec .sndStep { withRx 0 dat0 senderFull with rxq := [] } = .next t :=
  ⟨by decide, by decide, by decide, by decide, ⟨_, rfl⟩⟩

/-- At `elapsed = RTO + 1` the time-out is due (SV8). -/
theorem witness_SndStepGoesBackOnTimeout :
    senderFull.snd.act = true ∧ senderFull.rxq = [] ∧ senderFull.snd.toSend = .sending 3 ∧
      senderFull.snd.rtxT0.toNat + senderFull.cfg.rto.toNat < (6 : Dword).toNat := by decide

/-- A teardown-ack (SV6), and `elapsed = KILL + 1` (SV10). -/
theorem witness_SndStepEndsTheSession :
    (sender.snd.act = true ∧ (decodePkt endAck0 sender.cfg.csen).status = .ok ∧
      (decodePkt endAck0 sender.cfg.csen).payload = [0x52, 0x44, 0x54, 0x45, 0x6E, 0x64, 0x41, 0x63, 0x6B, 0x2E]) ∧
    (senderEnding.snd.act = true ∧ senderEnding.rxq = [] ∧ senderEnding.snd.toSend = .tearingDown ∧
      senderEnding.cfg.ctrl.getLsbD 1 = true ∧ senderEnding.snd.tdValid = true ∧
      senderEnding.snd.tdT0.toNat + senderEnding.cfg.kill.toNat < (31 : Dword).toNat) := by decide

/-- `elapsed = KILL` (SV9), and KILLEN 0 (SV11). -/
theorem witness_SndStepSendsTheTeardown :
    senderEnding.snd.act = true ∧ senderEnding.snd.term = false ∧ senderEnding.frameTooBig = false ∧
      senderEnding.rxq = [] ∧ senderEnding.snd.toSend = .tearingDown ∧
      senderEnding.snd.lastPacket + 1 = ((4 : Nat) : Int) ∧
      senderEnding.time.toNat ≤ senderEnding.snd.tdT0.toNat + senderEnding.cfg.kill.toNat ∧
      ({ senderEnding.cfg with ctrl := 1 } : CfgRegs).ctrl.getLsbD 1 = false := by decide

theorem witness_SndStepCompletesAndNeverGoesBack :
    State.reset.snd.act = false ∧ sender.snd.act = true ∧ sender.frameTooBig = false ∧
      (senderLast.snd.act = true ∧ senderLast.frameTooBig = false ∧ senderLast.snd.toSend ≠ .tearingDown ∧
        after (fun t => t.snd.toSend) (exec .sndStep senderLast) = some .tearingDown) ∧
      senderBeyond.snd.act = true ∧ senderBeyond.frameTooBig = false ∧ senderBeyond.snd.toSend = .sending 4 ∧
      senderBeyond.snd.lastPacket ≠ -1 ∧ senderBeyond.snd.lastPacket < senderBeyond.snd.lastAck ∧
      senderBeyond.snd.lastPacket < ((4 : Nat) : Int) ∧
      (senderBeyond.snd.windowStart : Int) = senderBeyond.snd.lastAck + 1 := by decide

theorem witness_RcvStartCreatesOrRefuses :
    (receiver.snd.act = true ∨ receiver.rcv.act = true) ∧
      (State.reset.snd.act = false ∧ State.reset.rcv.act = false ∧
        small.params.rbufCap < (if small.cfg.ctrl.getLsbD 0 then 6 else 4) + max 11 10) ∧
      (if small.cfg.ctrl.getLsbD 0 then 6 else 4) + max 10 10 ≤ small.params.rbufCap := by decide

theorem witness_RcvStepAppendsInOrder :
    receiver.rcv.act = true ∧ receiver.rcv.term = false ∧ receiver.frameTooBig = false ∧
      (withRx 1 dat0 receiver).rxq = { tag := 1, bytes := dat0 } :: [] ∧
      (decodePkt dat0 receiver.cfg.csen).status = .ok ∧
      (decodePkt dat0 receiver.cfg.csen).payload ≠ [0x52, 0x44, 0x54, 0x45, 0x6E, 0x64, 0x2E] ∧
      ((decodePkt dat0 receiver.cfg.csen).seq.toNat : Int) = receiver.rcv.lastRecvd + 1 ∧
      receiver.rcv.alen + (decodePkt dat0 receiver.cfg.csen).payload.length ≤ receiver.params.abufCap := by decide

/-- A bad checksum (RV4), a duplicate (RV3), and an in-order packet one byte too long for ABUF (RV8). -/
theorem witness_RcvStepDiscardsTheRest :
    receiver.rcv.act = true ∧ receiver.rcv.term = false ∧
      (decodePkt (dat0.set 7 0x64) receiver.cfg.csen).status ≠ .ok ∧
      (decodePkt dat0 receiver.cfg.csen).status = .ok ∧
      (decodePkt dat0 receiver.cfg.csen).payload ≠ [0x52, 0x44, 0x54, 0x45, 0x6E, 0x64, 0x2E] ∧
      ((decodePkt dat0 receiver.cfg.csen).seq.toNat : Int) ≠ 0 + 1 ∧
      ((decodePkt dat0 receiver.cfg.csen).seq.toNat : Int) = receiver.rcv.lastRecvd + 1 ∧
      3 < receiver.rcv.alen + (decodePkt dat0 receiver.cfg.csen).payload.length := by decide

/-- Before any data (RV5), and after some (RV6). -/
theorem witness_RcvStepEndsOnTeardown :
    receiver.rcv.act = true ∧ receiver.frameTooBig = false ∧ (decodePkt end1 receiver.cfg.csen).status = .ok ∧
      (decodePkt end1 receiver.cfg.csen).payload = [0x52, 0x44, 0x54, 0x45, 0x6E, 0x64, 0x2E] ∧
      receiver.rcv.lastRecvd = -1 ∧ ({ receiver.rcv with lastRecvd := 3 } : Rcv).lastRecvd = ((3 : Nat) : Int) := by
  decide

/-- A session under AUTO, just started. -/
theorem witness_EveryStepKeepsTheStateLegal :
    ∃ t, (withNext .auto autoSender).Legal ∧ step (withNext .auto autoSender) = .next t ∧
      (withNext .auto autoSender).SenderExact ∧ (withNext .auto autoSender).NoEarlyAck := by
  refine ⟨_, autoSender_legal, rfl, fun _ => ⟨?_, by decide, ?_, by decide⟩, fun d hd => by cases hd⟩
  · intro k hk
    cases hk
    decide
  · intro j hj
    change (j : Int) < -1 at hj
    omega

/-- The two ranges of `last_packet`: unknown, with an ACK at the head of RXQ that is not early; and known, where no ACK is
early. -/
theorem witness_EveryStepKeepsTheStateLegal_ack :
    ((withRx 0 ack0 senderFull).SenderExact ∧ (withRx 0 ack0 senderFull).NoEarlyAck) ∧
      senderLast.SenderExact ∧ senderLast.NoEarlyAck := by
  refine ⟨⟨fun _ => ⟨?_, by decide, ?_, by decide⟩, ?_⟩, fun _ => ⟨?_, by decide, ?_, by decide⟩, ?_⟩
  · intro k hk
    cases hk
    decide
  · intro j hj
    change (j : Int) < -1 at hj
    omega
  · intro d hd _ _ _
    cases hd
    decide
  · intro k hk
    cases hk
    decide
  · intro j hj
    change (j : Int) < 3 at hj
    have : j = 0 ∨ j = 1 ∨ j = 2 := by omega
    rcases this with rfl | rfl | rfl <;> decide
  · intro d _ _ _ hl
    cases hl

theorem witness_LegalStatesNeverStop :
    (withNext .auto autoSender).Legal ∧ (withNext .auto autoSender).NextStoreInRange :=
  ⟨autoSender_legal, fun _ _ _ h => by cases h⟩

/-- A fault, an EMPTY and an OK. -/
theorem witness_FaultsArePrecise :
    seen (exec .sndStep State.reset) = some (0x85, 0) ∧ seen (exec .rcvStep receiver) = some (0x01, 0) ∧
      seen (exec .nop State.reset) = some (0x00, 0) := by decide

theorem witness_OnlyOwnersWriteRegisters :
    ∃ t u, exec (.cfgWr 0) sender = .next t ∧ sender.snd.act = true ∧ exec .rcvStart State.reset = .next u :=
  ⟨_, _, rfl, rfl, rfl⟩

theorem witness_OnlyOwnersWriteMemories : ∃ t, exec .frEnc hell = .next t := ⟨_, rfl⟩

theorem witness_OutputsAreOnlyAddedTo :
    ∃ t, step (withNext (.host 0x39000000 0) (withRx 1 dat0 { receiver with rcv := { receiver.rcv with alen := 4 } })) =
      .next t := ⟨_, rfl⟩

end Sys2Proof.Tests
end

/-! # What an operation can do

`Effect` says, operation by operation, what one that ends with status OK did to the block; `Completes` adds the
completion. `exec_completes` ties both to `exec`, so that the proofs about every operation split on the effect and do
not unfold `exec`. -/
namespace Sys2Proof.Machine

/-! ## The field rules of the updates that `Laws/State` leaves out -/

section WriteReg
variable (s : State) (r : Reg) (v : Dword)

@[simp] theorem writeReg_csu : (writeReg s r v).csu = s.csu := by cases r <;> rfl
@[simp] theorem writeReg_dec : (writeReg s r v).dec = s.dec := by cases r <;> rfl
@[simp] theorem writeReg_time : (writeReg s r v).time = s.time := by cases r <;> rfl
@[simp] theorem writeReg_snd : (writeReg s r v).snd = s.snd := by cases r <;> rfl
@[simp] theorem writeReg_rcv : (writeReg s r v).rcv = s.rcv := by cases r <;> rfl
@[simp] theorem writeReg_pld : (writeReg s r v).pld = s.pld := by cases r <;> rfl
@[simp] theorem writeReg_txp : (writeReg s r v).txp = s.txp := by cases r <;> rfl
@[simp] theorem writeReg_rxq : (writeReg s r v).rxq = s.rxq := by cases r <;> rfl
@[simp] theorem writeReg_tbuf : (writeReg s r v).tbuf = s.tbuf := by cases r <;> rfl
@[simp] theorem writeReg_abuf : (writeReg s r v).abuf = s.abuf := by cases r <;> rfl
@[simp] theorem writeReg_port : (writeReg s r v).port = s.port := by cases r <;> rfl
@[simp] theorem writeReg_params : (writeReg s r v).params = s.params := by cases r <;> rfl
@[simp] theorem writeReg_epoch : (writeReg s r v).epoch = s.epoch := by cases r <;> rfl
@[simp] theorem writeReg_sched : (writeReg s r v).sched = s.sched := by cases r <;> rfl
@[simp] theorem writeReg_netOut : (writeReg s r v).netOut = s.netOut := by cases r <;> rfl

/-- The lock covers every configuration register (10_state.md R30). -/
theorem writeReg_cfg_of_unlocked {r : Reg} (h : lockedReg r = false) : (writeReg s r v).cfg = s.cfg := by
  cases r
  case ctrl | psize | window | rto | kill | dest => cases h
  all_goals rfl

theorem State.sessionActive_eq_false : s.sessionActive = false ↔ s.snd.act = false ∧ s.rcv.act = false :=
  Bool.or_eq_false_iff

/-- A write that passed the lock leaves the configuration, or there is no session. -/
theorem writeReg_cfg_or_idle {r : Reg} (hlock : lockedReg r = true → s.sessionActive = false) :
    (writeReg s r v).cfg = s.cfg ∨ s.snd.act = false ∧ s.rcv.act = false := by
  cases hl : lockedReg r
  · exact .inl (writeReg_cfg_of_unlocked s v hl)
  · exact .inr (s.sessionActive_eq_false.mp (hlock hl))

/-- A legal write keeps PSIZE, PLEN and TXLEN in their ranges (44_system.md R166). -/
theorem writeReg_ranges {r : Reg} {v : Dword} (h : legalValue s.params r v = true) :
    ((writeReg s r v).cfg.psize = s.cfg.psize ∨
        1 ≤ (writeReg s r v).cfg.psize ∧ (writeReg s r v).cfg.psize ≤ s.params.rbufCap - 4) ∧
      ((writeReg s r v).fr.plen = s.fr.plen ∨ (writeReg s r v).fr.plen ≤ s.params.rbufCap) ∧
      ((writeReg s r v).fr.txlen = s.fr.txlen ∨ (writeReg s r v).fr.txlen ≤ s.params.rbufCap) := by
  cases r
  case psize => exact ⟨.inr (of_decide_eq_true h), .inl rfl, .inl rfl⟩
  case plen => exact ⟨.inl rfl, .inr (of_decide_eq_true h), .inl rfl⟩
  case txlen => exact ⟨.inl rfl, .inl rfl, .inr (of_decide_eq_true h)⟩
  all_goals exact ⟨.inl rfl, .inl rfl, .inl rfl⟩

end WriteReg

/-- `s` after a STEP has sent what its iteration gave, if anything, to `dst` (42_sender_arq.md R132, 43_receiver_arq.md
R153): TXP, TXLEN and the TX port (20_memory.md R52, R62). -/
def State.afterSend (s : State) (dst : AddrTag) : Option (List Byte) → State
  | none => s
  | some p =>
    { s with
      txp := Mem.writeBytes s.txp 0 p, fr := { s.fr with txlen := p.length }
      netOut := s.netOut ++ [{ tag := dst, bytes := p }] }

section AfterSend
variable (s : State) (dst : AddrTag) (o : Option (List Byte))

@[simp] theorem State.afterSend_csu : (s.afterSend dst o).csu = s.csu := by cases o <;> rfl
@[simp] theorem State.afterSend_dec : (s.afterSend dst o).dec = s.dec := by cases o <;> rfl
@[simp] theorem State.afterSend_cfg : (s.afterSend dst o).cfg = s.cfg := by cases o <;> rfl
@[simp] theorem State.afterSend_stat : (s.afterSend dst o).stat = s.stat := by cases o <;> rfl
@[simp] theorem State.afterSend_time : (s.afterSend dst o).time = s.time := by cases o <;> rfl
@[simp] theorem State.afterSend_snd : (s.afterSend dst o).snd = s.snd := by cases o <;> rfl
@[simp] theorem State.afterSend_rcv : (s.afterSend dst o).rcv = s.rcv := by cases o <;> rfl
@[simp] theorem State.afterSend_pld : (s.afterSend dst o).pld = s.pld := by cases o <;> rfl
@[simp] theorem State.afterSend_rxq : (s.afterSend dst o).rxq = s.rxq := by cases o <;> rfl
@[simp] theorem State.afterSend_tbuf : (s.afterSend dst o).tbuf = s.tbuf := by cases o <;> rfl
@[simp] theorem State.afterSend_abuf : (s.afterSend dst o).abuf = s.abuf := by cases o <;> rfl
@[simp] theorem State.afterSend_port : (s.afterSend dst o).port = s.port := by cases o <;> rfl
@[simp] theorem State.afterSend_params : (s.afterSend dst o).params = s.params := by cases o <;> rfl
@[simp] theorem State.afterSend_epoch : (s.afterSend dst o).epoch = s.epoch := by cases o <;> rfl
@[simp] theorem State.afterSend_sched : (s.afterSend dst o).sched = s.sched := by cases o <;> rfl
@[simp] theorem State.afterSend_seq : (s.afterSend dst o).fr.seq = s.fr.seq := by cases o <;> rfl
@[simp] theorem State.afterSend_plen : (s.afterSend dst o).fr.plen = s.fr.plen := by cases o <;> rfl

end AfterSend

/-- The receiver iteration's outcomes (43_receiver_arq.md R152 to R160): the datagram discarded, the session ended, the
payload refused for its length, appended, or out of order. `u` is the state with R_PEER written (R160). -/
theorem rcvIter_cases (d : Datagram) (s : State) :
    (rcvIter d s).1 = s ∨
      ∃ u : State, u = { s with rcv := { s.rcv with peer := d.tag } } ∧
        ((rcvIter d s).1 = { u with rcv := { u.rcv with term := true, act := false } } ∨
          (rcvIter d s).1 = { u with stat := { u.stat with rOvf := true } } ∨
          (∃ p : Packet, (p.seq.toNat : Int) = s.rcv.lastRecvd + 1 ∧
            s.rcv.alen + p.payload.length ≤ s.params.abufCap ∧ (rcvIter d s).1 = rcvAppend p.payload u) ∨
          (rcvIter d s).1 = u) := by
  by_cases hok : (decodePkt d.bytes s.cfg.csen).status = .ok
  · have hit : rcvIter d s =
        rcvAccept (decodePkt d.bytes s.cfg.csen) { s with rcv := { s.rcv with peer := d.tag } } := by
      simp only [rcvIter, if_pos hok]
    rw [hit]
    refine .inr ⟨_, rfl, ?_⟩
    rcases rcvAccept_cases (decodePkt d.bytes s.cfg.csen) { s with rcv := { s.rcv with peer := d.tag } } with
      ⟨-, h⟩ | ⟨-, -, -, h⟩ | ⟨-, hseq, hfit, h⟩ | ⟨-, -, h⟩
    · exact .inl (congrArg Prod.fst h)
    · exact .inr (.inl (congrArg Prod.fst h))
    · exact .inr (.inr (.inl ⟨_, hseq, hfit, congrArg Prod.fst h⟩))
    · exact .inr (.inr (.inr (congrArg Prod.fst h)))
  · exact .inl (by simp only [rcvIter, if_neg hok])

/-- The receiver iteration writes nothing but the receiver session, ABUF and STATUS.R_OVF. -/
theorem rcvIter_frame (d : Datagram) (s : State) :
    (rcvIter d s).1 =
      { s with rcv := (rcvIter d s).1.rcv, abuf := (rcvIter d s).1.abuf, stat := (rcvIter d s).1.stat } := by
  have hcases := rcvIter_cases d s
  generalize (rcvIter d s).1 = v at hcases ⊢
  rcases hcases with rfl | ⟨u, rfl, rfl | rfl | ⟨p, -, -, rfl⟩ | rfl⟩ <;> rfl

section RcvIter
variable (d : Datagram) (s : State)

@[simp] theorem rcvIter_csu : (rcvIter d s).1.csu = s.csu := by rw [rcvIter_frame]
@[simp] theorem rcvIter_fr : (rcvIter d s).1.fr = s.fr := by rw [rcvIter_frame]
@[simp] theorem rcvIter_dec : (rcvIter d s).1.dec = s.dec := by rw [rcvIter_frame]
@[simp] theorem rcvIter_cfg : (rcvIter d s).1.cfg = s.cfg := by rw [rcvIter_frame]
@[simp] theorem rcvIter_time : (rcvIter d s).1.time = s.time := by rw [rcvIter_frame]
@[simp] theorem rcvIter_snd : (rcvIter d s).1.snd = s.snd := by rw [rcvIter_frame]
@[simp] theorem rcvIter_pld : (rcvIter d s).1.pld = s.pld := by rw [rcvIter_frame]
@[simp] theorem rcvIter_txp : (rcvIter d s).1.txp = s.txp := by rw [rcvIter_frame]
@[simp] theorem rcvIter_rxq : (rcvIter d s).1.rxq = s.rxq := by rw [rcvIter_frame]
@[simp] theorem rcvIter_tbuf : (rcvIter d s).1.tbuf = s.tbuf := by rw [rcvIter_frame]
@[simp] theorem rcvIter_port : (rcvIter d s).1.port = s.port := by rw [rcvIter_frame]
@[simp] theorem rcvIter_params : (rcvIter d s).1.params = s.params := by rw [rcvIter_frame]
@[simp] theorem rcvIter_epoch : (rcvIter d s).1.epoch = s.epoch := by rw [rcvIter_frame]
@[simp] theorem rcvIter_sched : (rcvIter d s).1.sched = s.sched := by rw [rcvIter_frame]
@[simp] theorem rcvIter_netOut : (rcvIter d s).1.netOut = s.netOut := by rw [rcvIter_frame]

end RcvIter

/-! ## The effects -/

/-- What an operation that ends with status OK does to the block, its completion left out. -/
inductive Effect : Instr → State → State → Prop
  | nop {s} : Effect .nop s s
  | sysRst {s} : Effect .sysRst s s.softReset
  | cfgWr {s reg r} (hreg : regOf reg = some r) (hlock : lockedReg r = true → s.sessionActive = false)
      (hval : legalValue s.params r s.port.wdata = true) : Effect (.cfgWr reg) s (writeReg s r s.port.wdata)
  | cfgRd {s reg} : Effect (.cfgRd reg) s s
  | bufWrbPld {s buf addr b} (haddr : addr.toNat < s.params.rbufCap) :
      Effect (.bufWrb buf addr b) s { s with pld := Mem.write s.pld addr.toNat b }
  | bufWrbTxp {s buf addr b} (haddr : addr.toNat < s.params.rbufCap) :
      Effect (.bufWrb buf addr b) s { s with txp := Mem.write s.txp addr.toNat b }
  | bufRdb {s buf addr} : Effect (.bufRdb buf addr) s s
  | csClr {s} : Effect .csClr s { s with csu := Csu.reset }
  | csPutb {s b} : Effect (.csPutb b) s { s with csu := s.csu.put b }
  | csPuth {s h} : Effect (.csPuth h) s { s with csu := s.csu.putAll (be16 h) }
  | csBuf {s buf sp bs} (hsp : bufOf buf = some sp) (hbs : s.bufBytes sp = .ok bs) :
      Effect (.csBuf buf) s { s with csu := s.csu.putAll bs }
  | csGet {s} : Effect .csGet s s
  | csVfy {s} : Effect .csVfy s s
  | frEnc {s payload p} (hpay : s.bufBytes .pld = .ok payload) (hp : p = encodePkt s.fr.seq payload s.cfg.csen)
      (hfit : p.length ≤ s.params.rbufCap) :
      Effect .frEnc s { s with txp := Mem.writeBytes s.txp 0 p, fr := { s.fr with txlen := p.length } }
  | frDec {s buf sp d} (hsp : bufOf buf = some sp) (hd : s.bufBytes sp = .ok d) :
      Effect (.frDec buf) s { s with dec := decRegsOf d s.cfg.csen }
  | netTx {s bs} (hbs : s.bufBytes .txp = .ok bs) : Effect .netTx s (s.emit s.cfg.dest bs)
  | netRxpop {s} : Effect .netRxpop s s.popRx
  | sndStart {s} (hact : s.sessionActive = false) (hcfg : sndConfigBad s = false) :
      Effect .sndStart s { s with snd := sndFresh s, rxq := [] }
  | sndStep {s r} (hact : s.snd.act = true) (hr : r = sndIter s s.time (s.rxq.head?.map (·.bytes)))
      (hfit : ∀ p ∈ r.2, p.length ≤ s.params.rbufCap) :
      Effect .sndStep s (({ s.popRx with snd := r.1 } : State).afterSend s.cfg.dest r.2)
  | rcvStart {s} (hact : s.sessionActive = false) (hroom : s.frameTooBig = false) :
      Effect .rcvStart s { s with rcv := rcvFresh, rxq := [] }
  | rcvStep {s d q} (hact : s.rcv.act = true) (hq : s.rxq = d :: q)
      (hfit : ∀ p ∈ (rcvIter d s.popRx).2, p.length ≤ s.params.rbufCap) :
      Effect .rcvStep s ((rcvIter d s.popRx).1.afterSend d.tag (rcvIter d s.popRx).2)

/-- How the operation `i` can complete (60_exceptions.md R170, R179; 10_state.md R25): with a fault, with EMPTY, or with
OK after its effect. -/
inductive Completes (i : Instr) (s : State) : State → Prop
  | faulted (f : Status) (hf : 0x80 ≤ f.code.toNat) : Completes i s (s.faulted f.code (encode i))
  | foundEmpty : Completes i s s.foundEmpty
  | done {u : State} (rd : Dword) (h : Effect i s u) : Completes i s (u.done rd)

theorem Completes.of_raiseFor {f : Status} {i : Instr} {s t : State} (h : raiseFor f i s = .next t)
    (hf : 0x80 ≤ f.code.toNat := by decide) : Completes i s t := by
  cases h
  exact .faulted f hf

section Families
variable {s t : State}

theorem completes_cfgWr {reg : BitVec 8} (h : execCfgWr reg s = .next t) : Completes (.cfgWr reg) s t := by
  unfold execCfgWr at h
  split at h
  · exact .of_raiseFor h
  · rename_i r hreg
    split at h
    · exact .of_raiseFor h
    · split at h
      · exact .of_raiseFor h
      · rename_i hlock
        split at h
        · exact .of_raiseFor h
        · rename_i hval
          cases h
          exact .done 0 (.cfgWr hreg (by simpa using hlock) (by simpa using hval))

theorem completes_cfgRd {reg : BitVec 8} (h : execCfgRd reg s = .next t) : Completes (.cfgRd reg) s t := by
  unfold execCfgRd at h
  split at h
  · exact .of_raiseFor h
  · cases h
    exact .done _ .cfgRd

theorem completes_bufWrb {buf : BitVec 4} {addr : BitVec 12} {b : Byte} (h : execBufWrb buf addr b s = .next t) :
    Completes (.bufWrb buf addr b) s t := by
  unfold execBufWrb at h
  split at h
  · split at h
    · exact .of_raiseFor h
    · cases h
      exact .done 0 (.bufWrbPld (by omega))
  · split at h
    · exact .of_raiseFor h
    · cases h
      exact .done 0 (.bufWrbTxp (by omega))
  · exact .of_raiseFor h

theorem completes_bufRdb {buf : BitVec 4} {addr : BitVec 12} (h : execBufRdb buf addr s = .next t) :
    Completes (.bufRdb buf addr) s t := by
  unfold execBufRdb at h
  split at h
  · exact .of_raiseFor h
  all_goals
    split at h
    · exact .of_raiseFor h
    · cases h
      exact .done _ .bufRdb

theorem completes_csBuf {buf : BitVec 4} (h : execCsBuf buf s = .next t) : Completes (.csBuf buf) s t := by
  unfold execCsBuf at h
  split at h
  · exact .of_raiseFor h
  · rename_i sp hsp
    obtain ⟨bs, hbs, h⟩ := withMem_next h
    cases h
    exact .done 0 (.csBuf hsp hbs)

theorem completes_frEnc (h : execFrEnc s = .next t) : Completes .frEnc s t := by
  unfold execFrEnc at h
  split at h
  · exact .of_raiseFor h
  · obtain ⟨payload, hpay, h⟩ := withMem_next h
    obtain ⟨u, hput, h⟩ := withMem_next h
    obtain ⟨hfit, rfl⟩ := State.putTxp_ok.mp hput
    cases h
    exact .done _ (.frEnc hpay rfl hfit)

theorem completes_frDec {buf : BitVec 4} (h : execFrDec buf s = .next t) : Completes (.frDec buf) s t := by
  unfold execFrDec at h
  split at h
  · rename_i hsp
    obtain ⟨d, hd, h⟩ := withMem_next h
    cases h
    exact .done _ (.frDec hsp hd)
  · rename_i hsp
    split at h
    · cases h
      exact .foundEmpty
    · rename_i d q hq
      cases h
      exact .done _ (.frDec hsp (by simp [State.rxpBytes, hq]))
  · exact .of_raiseFor h

theorem completes_netTx (h : execNetTx s = .next t) : Completes .netTx s t := by
  obtain ⟨bs, hbs, h⟩ := withMem_next h
  cases h
  exact .done 0 (.netTx hbs)

theorem completes_netRxpop (h : execNetRxpop s = .next t) : Completes .netRxpop s t := by
  unfold execNetRxpop at h
  split at h
  · cases h
    exact .foundEmpty
  · cases h
    exact .done 0 .netRxpop

theorem completes_sndStart (h : execSndStart s = .next t) : Completes .sndStart s t := by
  unfold execSndStart at h
  split at h
  · exact .of_raiseFor h
  · rename_i hact
    split at h
    · exact .of_raiseFor h
    · rename_i hcfg
      cases h
      exact .done 0 (.sndStart (by simpa using hact) (by simpa using hcfg))

/-- With RXQ empty there is nothing to remove from it. -/
theorem State.popRx_of_empty (h : s.rxq = []) : s.popRx = s := by
  cases s
  cases h
  rfl

/-- `SND.STEP` in an active session is one iteration on the head of RXQ, if there is one. -/
theorem execSndStep_active (hact : s.snd.act = true) :
    ∃ rxc, execSndStep s = sndFinish rxc (sndIter s s.time (s.rxq.head?.map (·.bytes))) s.popRx := by
  unfold execSndStep
  rw [if_pos hact]
  split
  · rename_i hq
    exact ⟨false, by rw [State.popRx_of_empty hq, hq]; rfl⟩
  · rename_i d q hq
    exact ⟨true, by rw [hq]; rfl⟩

theorem completes_sndStep (h : execSndStep s = .next t) : Completes .sndStep s t := by
  by_cases hact : s.snd.act = true
  · obtain ⟨rxc, hx⟩ := execSndStep_active hact
    rw [hx] at h
    rcases sndFinish_next h with ⟨hnone, rfl⟩ | ⟨p, hsome, hlen, rfl⟩
    · have he := Effect.sndStep hact rfl (by simp [hnone])
      rw [hnone] at he
      exact .done _ he
    · have he := Effect.sndStep hact rfl (by simpa [hsome] using hlen)
      rw [hsome] at he
      exact .done _ he
  · unfold execSndStep at h
    rw [if_neg hact] at h
    exact .of_raiseFor h

theorem completes_rcvStart (h : execRcvStart s = .next t) : Completes .rcvStart s t := by
  unfold execRcvStart at h
  split at h
  · exact .of_raiseFor h
  · rename_i hact
    split at h
    · exact .of_raiseFor h
    · rename_i hroom
      cases h
      exact .done 0 (.rcvStart (by simpa using hact) (by simpa using hroom))

theorem completes_rcvStep (h : execRcvStep s = .next t) : Completes .rcvStep s t := by
  unfold execRcvStep at h
  split at h
  · rename_i hact
    split at h
    · cases h
      exact .foundEmpty
    · rename_i d q hq
      rcases rcvFinish_next h with ⟨hnone, rfl⟩ | ⟨p, hsome, hlen, rfl⟩
      · have he := Effect.rcvStep hact hq (by simp [hnone])
        rw [hnone] at he
        exact .done _ he
      · have he := Effect.rcvStep hact hq (by simpa [hsome] using hlen)
        rw [hsome] at he
        exact .done _ he
  · exact .of_raiseFor h

/-- Everything an operation that completes can have done. -/
theorem exec_completes {i : Instr} (h : exec i s = .next t) : Completes i s t := by
  cases i with
  | nop => cases h; exact .done 0 .nop
  | sysRst => cases h; exact .done 0 .sysRst
  | cfgWr reg => exact completes_cfgWr h
  | cfgRd reg => exact completes_cfgRd h
  | bufWrb buf addr b => exact completes_bufWrb h
  | bufRdb buf addr => exact completes_bufRdb h
  | csClr => cases h; exact .done 0 .csClr
  | csPutb b => cases h; exact .done 0 .csPutb
  | csPuth w => cases h; exact .done 0 .csPuth
  | csBuf buf => exact completes_csBuf h
  | csGet => cases h; exact .done _ .csGet
  | csVfy => cases h; exact .done _ .csVfy
  | frEnc => exact completes_frEnc h
  | frDec buf => exact completes_frDec h
  | netTx => exact completes_netTx h
  | netRxpop => exact completes_netRxpop h
  | sndStart => exact completes_sndStart h
  | sndStep => exact completes_sndStep h
  | rcvStart => exact completes_rcvStart h
  | rcvStep => exact completes_rcvStep h

end Families

end Sys2Proof.Machine

/-! # Who writes which register -/
namespace Sys2Proof.Machine

section Owners
variable {i : Instr} {s u t : State}

/-- No operation writes TIME, the parameters, the epoch, the schedule or the port's operand. -/
theorem Effect.common (h : Effect i s u) :
    u.time = s.time ∧ u.params = s.params ∧ u.epoch = s.epoch ∧ u.sched = s.sched ∧ u.port = s.port := by
  cases h <;> simp

/-- Settles O58: a fault and EMPTY write none of these registers, and of the effects each writes only its own. -/
theorem onlyOwnersWriteRegisters : Obligations.OnlyOwnersWriteRegisters := by
  intro i s t h
  cases exec_completes h with
  | faulted f hf => cases i <;> simp [State.faulted]
  | foundEmpty => cases i <;> simp [State.foundEmpty]
  | done rd he =>
    obtain ⟨htime, hparams, hepoch, hsched, hport⟩ := he.common
    refine ⟨htime, hparams, hepoch, hsched, (congrArg Port.wdata hport : _), ?_⟩
    cases he with
    | cfgWr hreg hlock hval =>
      rcases writeReg_cfg_or_idle s s.port.wdata hlock with hcfg | ⟨hsnd, hrcv⟩
      · simp [State.done, hcfg]
      · simp [State.done, hsnd, hrcv]
    | _ => simp [State.done]

end Owners

end Sys2Proof.Machine

/-! # The sessions' invariant, on the session variables alone

`Snd.InRange` and `Snd.Running` are what a legal state says of the sender's variables, with the memories and the
configuration reduced to three numbers: the final packet, WINDOW and TIME. `State.sessions_iff` ties them to
`State.Legal`, and `State.senderExact_iff` ties `Snd.Exact` to `State.SenderExact`. -/
namespace Sys2Proof.Machine

/-! ## Slices and the final packet -/

section Slices
variable {s : State} {k : Nat}

/-- A data packet is short exactly from the final packet on (41_framer.md R126). -/
theorem dataPayload_short_iff (hp : 1 ≤ s.cfg.psize) :
    (dataPayload s k).length < s.cfg.psize ↔ s.finalPacket ≤ k := by
  have hdiv : s.finalPacket < k + 1 ↔ s.snd.len.toNat < (k + 1) * s.cfg.psize := Nat.div_lt_iff_lt_mul hp
  rw [Nat.add_mul, Nat.one_mul] at hdiv
  rw [dataPayload_length]
  omega

/-- Every data packet before the final one is full (41_framer.md R126). -/
theorem dataPayload_full_iff (hp : 1 ≤ s.cfg.psize) :
    (dataPayload s k).length = s.cfg.psize ↔ k < s.finalPacket := by
  have hshort := dataPayload_short_iff (k := k) hp
  rw [dataPayload_length] at hshort ⊢
  omega

/-- R37 (c), second half, as a bound of `last_packet`. -/
theorem slices_full_iff {n : Int} (hp : 1 ≤ s.cfg.psize) :
    (∀ j : Nat, (j : Int) < n → (dataPayload s j).length = s.cfg.psize) ↔ n ≤ s.finalPacket := by
  simp only [dataPayload_full_iff hp]
  refine ⟨fun h => ?_, fun h j hj => by omega⟩
  by_contra hlt
  exact absurd (h s.finalPacket (by omega)) (lt_irrefl _)

end Slices

/-! ## The invariant -/

/-- What holds of the sender's variables in every legal state, at TIME `now` (R34, R37 (a), (b), R183). -/
structure Snd.InRange (now : Dword) (v : Snd) : Prop where
  windowStart_eq : (v.windowStart : Int) = v.lastAck + 1
  lastAck_ge : -1 ≤ v.lastAck
  lastAck_lt : v.lastAck < 4294967296
  tearing : v.tdValid = true → v.toSend = .tearingDown
  rtxT0_le : v.rtxT0.toNat ≤ now.toNat
  tdT0_le : v.tdT0.toNat ≤ now.toNat
  tdT0_zero : v.tdValid = false → v.tdT0 = 0
  lastPacket_ge : -1 ≤ v.lastPacket
  lastPacket_le : v.lastPacket ≤ 4294967294 ∨ v.lastPacket ≤ v.lastAck + 1
  windowSize_lt : v.windowSize < 4294967296
  toSend_le : ∀ k, v.toSend = .sending k → k ≤ 4294967296 ∨ (k : Int) ≤ v.lastPacket + 1

/-- What also holds of the variables of an active session whose final packet is `K` and whose WINDOW is `w` (R37 (c),
(e), (f), assumption 17). While `last_packet` is unknown, `to_send` is at most `B`: `K` between two steps, and up to
`window_start` inside one, after a time-out. -/
structure Snd.Running (K B w : Nat) (v : Snd) : Prop where
  term : v.term = false
  forced : v.forced = false
  windowSize_le : v.windowSize ≤ w
  final_le : v.lastPacket ≠ -1 → (K : Int) ≤ v.lastPacket
  le_final : v.lastPacket ≤ K ∨ v.lastPacket ≤ v.lastAck + 1
  window_full : v.lastPacket = -1 → v.windowSize = w
  toSend_le : v.lastPacket = -1 → ∀ k, v.toSend = .sending k → k ≤ B

/-- What `State.SenderExact` says of the variables of an active session whose final packet is `K`. -/
structure Snd.Exact (K : Nat) (v : Snd) : Prop where
  toSend_le : ∀ k, v.toSend = .sending k → k ≤ 4294967296
  le_final : v.lastPacket ≤ K
  lastAck_lt : v.lastPacket = -1 → v.lastAck < K

/-- What holds of the receiver's variables in every legal state (R38). -/
def Rcv.InRange (cap : Nat) (v : Rcv) : Prop :=
  -1 ≤ v.lastRecvd ∧ v.lastRecvd < 4294967296 ∧ v.alen ≤ cap

/-- The configuration an active sender session was started with (42_sender_arq.md R131). -/
structure State.SenderConfigured (s : State) : Prop where
  room : s.frameTooBig = false
  window : s.cfg.window ≠ 0
  rto : s.cfg.rto ≠ 0
  kill : s.cfg.killen = true → s.cfg.rto.toNat < s.cfg.kill.toNat
  final_le : s.finalPacket ≤ 4294967294

/-- The sessions' part of `State.Legal`. -/
structure State.Sessions (s : State) : Prop where
  snd : s.snd.InRange s.time
  rcv : s.rcv.InRange s.params.abufCap
  sending : s.snd.act = true →
    s.rcv.act = false ∧ s.SenderConfigured ∧ s.snd.Running s.finalPacket s.finalPacket s.cfg.window.toNat
  receiving : s.rcv.act = true → s.snd.act = false ∧ s.rcv.term = false ∧ s.frameTooBig = false

theorem State.sessionActive_iff {s : State} : s.sessionActive = true ↔ s.snd.act = true ∨ s.rcv.act = true := by
  simp [State.sessionActive]

/-- R37 (c) as `State.LastPacketOk` has it, as bounds of `last_packet`. -/
theorem State.lastPacketOk_iff {s : State} (hp : 1 ≤ s.cfg.psize) (hlp : -1 ≤ s.snd.lastPacket) :
    s.LastPacketOk ↔ (s.snd.act = true →
      (s.snd.lastPacket ≠ -1 → (s.finalPacket : Int) ≤ s.snd.lastPacket) ∧
        (s.snd.lastPacket ≤ s.finalPacket ∨ s.snd.lastPacket ≤ s.snd.lastAck + 1) ∧
        (s.snd.lastPacket = -1 →
          s.snd.windowSize = s.cfg.window.toNat ∧ ∀ k, s.snd.toSend = .sending k → k ≤ s.finalPacket)) := by
  unfold State.LastPacketOk
  simp only [dataPayload_short_iff hp, slices_full_iff hp]
  refine imp_congr_right fun _ => and_congr (imp_congr_right fun _ => ?_) (and_congr ?_ Iff.rfl)
  · omega
  · omega

/-- The sessions' part of `State.Legal`, on the session variables. -/
theorem State.sessions_iff {s : State} (hp : 1 ≤ s.cfg.psize) :
    s.SessionOk ∧ s.SenderOk ∧ s.SessionRangesOk ↔ s.Sessions := by
  constructor
  · rintro ⟨⟨hone, hroom, hsnd, hrcv⟩, ⟨hws, hack0, htear, hwin, hrtx, htd, htd0, hpkt⟩,
      ⟨hack, hlp0, hlp, hwsz, hto, hrecvd0, hrecvd, halen⟩⟩
    rw [State.lastPacketOk_iff hp hlp0] at hpkt
    refine ⟨⟨hws, hack0, hack, htear, hrtx, htd, htd0, hlp0, hlp, hwsz, hto⟩, ⟨hrecvd0, hrecvd, halen⟩, fun hact => ?_,
      fun hact => ?_⟩
    · obtain ⟨hterm, hforced, hwindow, hrto, hkill, hfinal⟩ := hsnd hact
      obtain ⟨hge, hle, hunknown⟩ := hpkt hact
      exact ⟨by simpa [hact] using hone, ⟨hroom (sessionActive_iff.mpr (.inl hact)), hwindow, hrto, hkill, hfinal⟩,
        ⟨hterm, hforced, hwin hact, hge, hle, fun h => (hunknown h).1, fun h => (hunknown h).2⟩⟩
    · exact ⟨by simpa [hact] using hone, hrcv hact, hroom (sessionActive_iff.mpr (.inr hact))⟩
  · rintro ⟨hs, ⟨hrecvd0, hrecvd, halen⟩, hsnd, hrcv⟩
    refine ⟨⟨fun h => ?_, fun h => ?_, fun h => ?_, fun h => (hrcv h).2.1⟩,
      ⟨hs.windowStart_eq, hs.lastAck_ge, hs.tearing, fun h => (hsnd h).2.2.windowSize_le, hs.rtxT0_le, hs.tdT0_le,
        hs.tdT0_zero, (State.lastPacketOk_iff hp hs.lastPacket_ge).mpr fun h => ?_⟩,
      ⟨hs.lastAck_lt, hs.lastPacket_ge, hs.lastPacket_le, hs.windowSize_lt, hs.toSend_le, hrecvd0, hrecvd, halen⟩⟩
    · simp [(hsnd h.1).1] at h
    · rcases sessionActive_iff.mp h with h | h
      · exact (hsnd h).2.1.room
      · exact (hrcv h).2.2
    · obtain ⟨-, hc, hr⟩ := hsnd h
      exact ⟨hr.term, hr.forced, hc.window, hc.rto, hc.kill, hc.final_le⟩
    · obtain ⟨-, -, hr⟩ := hsnd h
      exact ⟨hr.final_le, hr.le_final, fun hu => ⟨hr.window_full hu, hr.toSend_le hu⟩⟩

/-- `State.SenderExact` on the session variables. -/
theorem State.senderExact_iff {s : State} (hp : 1 ≤ s.cfg.psize) (hs : s.Sessions) :
    s.SenderExact ↔ (s.snd.act = true → s.snd.Exact s.finalPacket) := by
  unfold State.SenderExact
  simp only [slices_full_iff hp]
  refine imp_congr_right fun hact => ⟨fun ⟨hto, _, hle, hack⟩ => ⟨hto, hle, hack⟩, fun ⟨hto, hle, hack⟩ => ?_⟩
  have hfinal := (hs.sending hact).2.1.final_le
  exact ⟨hto, by omega, hle, hack⟩

/-! ## The parts of the sender iteration keep it -/

section SenderParts
variable {now : Dword} {K B w : Nat} {v : Snd}

/-- An ACK moves `to_send` only into teardown (42_sender_arq.md R135). -/
theorem sndAcked_sending {n k : Nat} (h : (sndAcked now n v).toSend = .sending k) : v.toSend = .sending k := by
  simp only [sndAcked] at h
  split at h
  · cases h
  · exact h

theorem Snd.InRange.acked {n : Nat} (h : v.InRange now) (hn : n < 4294967296) (hnew : v.lastAck < (n : Int)) :
    (sndAcked now n v).InRange now := by
  have := h.windowStart_eq
  have := h.lastPacket_le
  exact { h with
    windowStart_eq := by simp only [sndAcked]; omega
    lastAck_ge := by simp only [sndAcked]; omega
    lastAck_lt := by simp only [sndAcked]; omega
    tearing := fun htd => by simp only [sndAcked, h.tearing htd, ite_self]
    rtxT0_le := le_rfl
    lastPacket_le := by simp only [sndAcked]; omega
    toSend_le := fun k hk => h.toSend_le k (sndAcked_sending hk) }

theorem Snd.Running.acked {n : Nat} (h : v.Running K B w) (hnew : v.lastAck < (n : Int)) :
    (sndAcked now n v).Running K B w := by
  have := h.le_final
  exact { h with
    le_final := by simp only [sndAcked]; omega
    toSend_le := fun hu k hk => h.toSend_le hu k (sndAcked_sending hk) }

theorem Snd.Exact.acked {n : Nat} (h : v.Exact K) (hearly : v.lastPacket = -1 → n < K) :
    (sndAcked now n v).Exact K :=
  { h with
    toSend_le := fun k hk => h.toSend_le k (sndAcked_sending hk)
    lastAck_lt := fun hu => Int.ofNat_lt.mpr (hearly hu) }

theorem Snd.InRange.ended {f : Bool} (h : v.InRange now) : (sndEnded f v).InRange now := { h with }

theorem Snd.InRange.retransmit {rto : Word} (h : v.InRange now) : (sndRetransmit rto now v).InRange now := by
  rcases sndRetransmit_cases rto now v with hr | ⟨⟨k, hk⟩, hr⟩
  · rwa [hr]
  · rw [hr]
    have := h.windowStart_eq
    have := h.lastAck_lt
    refine { h with tearing := fun htd => ?_, rtxT0_le := le_rfl, toSend_le := fun j hj => ?_ }
    · simp [h.tearing htd] at hk
    · cases hj
      omega

/-- After a time-out `to_send` can be beyond the final packet, at `window_start` (R138, assumption 17). -/
theorem Snd.Running.retransmit {rto : Word} (h : v.Running K K w) :
    (sndRetransmit rto now v).Running K (max K (sndRetransmit rto now v).windowStart) w := by
  rcases sndRetransmit_cases rto now v with hr | ⟨-, hr⟩ <;> rw [hr]
  · exact { h with toSend_le := fun hu k hk => le_max_of_le_left (h.toSend_le hu k hk) }
  · refine { h with toSend_le := fun _ k hk => ?_ }
    cases hk
    exact le_max_right _ _

theorem Snd.Exact.retransmit {rto : Word} (h : v.Exact K) (hv : v.InRange now) : (sndRetransmit rto now v).Exact K := by
  rcases sndRetransmit_cases rto now v with hr | ⟨-, hr⟩ <;> rw [hr]
  · exact h
  · have := hv.windowStart_eq
    have := hv.lastAck_lt
    refine { h with toSend_le := fun k hk => ?_ }
    cases hk
    omega

/-- The window only shrinks (42_sender_arq.md R141). -/
theorem shrunkWindow_le (k : Nat) (v : Snd) : shrunkWindow k v ≤ v.windowSize := by
  unfold shrunkWindow
  split <;> omega

theorem Snd.InRange.tornDown (h : v.InRange now) (ht : v.toSend = .tearingDown) : (sndTornDown now v).InRange now := by
  unfold sndTornDown
  split
  · exact h
  · exact { h with tearing := fun _ => ht, tdT0_le := le_rfl, tdT0_zero := nofun }

theorem Snd.Running.tornDown (h : v.Running K B w) (ht : v.toSend = .tearingDown) :
    (sndTornDown now v).Running K K w := by
  unfold sndTornDown
  split
  · exact { h with toSend_le := fun _ k hk => by simp [ht] at hk }
  · exact { h with toSend_le := fun _ k hk => by simp [ht] at hk }

theorem Snd.Exact.tornDown (h : v.Exact K) : (sndTornDown now v).Exact K := by
  unfold sndTornDown
  split
  · exact h
  · exact { h with }

/-- The packet that part 4 sends is at most the final one, or is at most the next after those acknowledged. -/
theorem Snd.Running.next_le {k : Nat} (hr : v.Running K (max K v.windowStart) w) (hv : v.InRange now)
    (hk : v.toSend = .sending k) (hbar : v.lastPacket = -1 ∨ (k : Int) ≤ v.lastPacket) :
    (k : Int) ≤ K ∨ (k : Int) ≤ v.lastAck + 1 := by
  have := hv.windowStart_eq
  rcases hbar with hu | hbar
  · have := hr.toSend_le hu k hk
    omega
  · have := hr.le_final
    omega

/-- A short packet was sent: it is the final one, or lies beyond it (R141, assumption 17). -/
theorem Snd.InRange.sent_short {k : Nat} (hv : v.InRange now) (hr : v.Running K (max K v.windowStart) w)
    (hK : K ≤ 4294967294) (hk : v.toSend = .sending k) (hbar : v.lastPacket = -1 ∨ (k : Int) ≤ v.lastPacket) :
    (sndSent k true v).InRange now := by
  have := hr.next_le hv hk hbar
  refine { hv with
    tearing := fun htd => ?_, lastPacket_ge := ?_, lastPacket_le := ?_
    windowSize_lt := (shrunkWindow_le k v).trans_lt hv.windowSize_lt, toSend_le := fun j hj => ?_ }
  · simp [hv.tearing htd] at hk
  · change -1 ≤ (k : Int)
    omega
  · change (k : Int) ≤ 4294967294 ∨ (k : Int) ≤ v.lastAck + 1
    omega
  · cases hj
    exact .inr (by simp [sndSent])

/-- A full packet was sent: it is before the final one. -/
theorem Snd.InRange.sent_full {k : Nat} (hv : v.InRange now) (hK : K ≤ 4294967294) (hk : v.toSend = .sending k)
    (hlt : k < K) : (sndSent k false v).InRange now := by
  refine { hv with tearing := fun htd => ?_, toSend_le := fun j hj => ?_ }
  · simp [hv.tearing htd] at hk
  · cases hj
    exact .inl (by omega)

theorem Snd.Running.sent_short {k : Nat} (hv : v.InRange now) (hr : v.Running K (max K v.windowStart) w)
    (hk : v.toSend = .sending k) (hbar : v.lastPacket = -1 ∨ (k : Int) ≤ v.lastPacket) (hge : K ≤ k) :
    (sndSent k true v).Running K K w := by
  have hknown : ((k : Int) = -1) → False := by omega
  exact { hr with
    windowSize_le := (shrunkWindow_le k v).trans hr.windowSize_le
    final_le := fun _ => Int.ofNat_le.mpr hge
    le_final := hr.next_le hv hk hbar
    window_full := fun h => (hknown h).elim
    toSend_le := fun h => (hknown h).elim }

theorem Snd.Running.sent_full {k : Nat} (hr : v.Running K B w) (hlt : k < K) : (sndSent k false v).Running K K w := by
  refine { hr with toSend_le := fun _ j hj => ?_ }
  cases hj
  exact hlt

/-- Nothing was sent: with `last_packet` unknown the window is not empty, so `to_send` is not at `window_start`. -/
theorem Snd.Running.waits {k : Nat} (hr : v.Running K (max K v.windowStart) w) (hw : w ≠ 0) (hk : v.toSend = .sending k)
    (hno : ¬(k < v.windowStart + v.windowSize ∧ (v.lastPacket = -1 ∨ (k : Int) ≤ v.lastPacket))) :
    v.Running K K w := by
  refine { hr with toSend_le := fun hu j hj => ?_ }
  have := hr.window_full hu
  have := hr.toSend_le hu j hj
  rw [hk] at hj
  cases hj
  simp only [hu, true_or, and_true] at hno
  omega

theorem Snd.Exact.sent {k : Nat} {short : Bool} (he : v.Exact K) (hv : v.InRange now)
    (hr : v.Running K (max K v.windowStart) w) (hK : K ≤ 4294967294) (hk : v.toSend = .sending k)
    (hbar : v.lastPacket = -1 ∨ (k : Int) ≤ v.lastPacket) : (sndSent k short v).Exact K := by
  have hle : k ≤ K := by
    have := hv.windowStart_eq
    have := he.le_final
    rcases hbar with hu | hbar
    · have := hr.toSend_le hu k hk
      have := he.lastAck_lt hu
      omega
    · omega
  cases short
  · refine { he with toSend_le := fun j hj => ?_ }
    cases hj
    omega
  · refine ⟨fun j hj => ?_, Int.ofNat_le.mpr hle, fun h => ?_⟩
    · cases hj
      omega
    · change (k : Int) = -1 at h
      omega

end SenderParts

/-! ## The whole iteration keeps it -/

section SenderIteration
variable {s : State} {v : Snd}

/-- Part 1 (R135 to R137): the session goes on, or it is over. -/
theorem sndInbound_keeps {cs : Bool} {now : Dword} {K w : Nat} (dg : Option (List Byte)) (hv : v.InRange now)
    (hr : v.Running K K w) :
    (sndInbound cs now dg v).1.InRange now ∧
      ((sndInbound cs now dg v).2 = false → (sndInbound cs now dg v).1.Running K K w) ∧
      ((sndInbound cs now dg v).2 = true → (sndInbound cs now dg v).1.act = false) := by
  cases dg with
  | none => exact ⟨hv, fun _ => hr, nofun⟩
  | some d =>
    rcases sndInbound_some cs now d v with ⟨-, -, hnew, h⟩ | ⟨-, -, h⟩ | ⟨-, h⟩ <;> rw [h]
    · exact ⟨hv.acked (BitVec.isLt _) hnew, fun _ => hr.acked hnew, nofun⟩
    · exact ⟨hv.ended, nofun, fun _ => rfl⟩
    · exact ⟨hv, fun _ => hr, nofun⟩

/-- Part 4 (R140 to R143). -/
theorem sndSend_keeps (hp : 1 ≤ s.cfg.psize) (hc : s.SenderConfigured) (hv : v.InRange s.time)
    (hr : v.Running s.finalPacket (max s.finalPacket v.windowStart) s.cfg.window.toNat) :
    (sndSend s s.time v).1.InRange s.time ∧
      (sndSend s s.time v).1.Running s.finalPacket s.finalPacket s.cfg.window.toNat := by
  rcases sndSend_cases s s.time v with ⟨ht, h⟩ | ⟨k, hk, -, hbar, h⟩ | ⟨⟨k, hk, hno⟩, h⟩ <;> rw [h]
  · exact ⟨hv.tornDown ht, hr.tornDown ht⟩
  · by_cases hshort : s.finalPacket ≤ k
    · rw [decide_eq_true ((dataPayload_short_iff hp).mpr hshort)]
      exact ⟨hv.sent_short hr hc.final_le hk hbar, hr.sent_short hv hk hbar hshort⟩
    · rw [decide_eq_false (mt (dataPayload_short_iff hp).mp hshort)]
      exact ⟨hv.sent_full hc.final_le hk (by omega), hr.sent_full (by omega)⟩
  · have hw : s.cfg.window.toNat ≠ 0 := fun h0 => hc.window (BitVec.eq_of_toNat_eq h0)
    exact ⟨hv, hr.waits hw hk hno⟩

/-- The iteration ends in part 1 or in part 3, with the session over, or with part 4. -/
theorem sndIter_cases (s : State) (now : Dword) (dg : Option (List Byte)) :
    ((sndInbound s.cfg.csen now dg s.snd).2 = true ∧
        (sndIter s now dg).1 = (sndInbound s.cfg.csen now dg s.snd).1) ∨
      ((sndInbound s.cfg.csen now dg s.snd).2 = false ∧
        ∃ u, u = sndRetransmit s.cfg.rto now (sndInbound s.cfg.csen now dg s.snd).1 ∧
          ((sndIter s now dg).1 = sndEnded true u ∨ sndIter s now dg = sndSend s now u)) := by
  unfold sndIter
  cases hstop : (sndInbound s.cfg.csen now dg s.snd).2
  · refine .inr ⟨rfl, _, rfl, ?_⟩
    by_cases hkill : sndKillDue s.cfg now (sndRetransmit s.cfg.rto now (sndInbound s.cfg.csen now dg s.snd).1) = true
    · exact .inl (by simp [hstop, hkill])
    · exact .inr (by simp [hstop, hkill])
  · exact .inl ⟨rfl, by simp [hstop]⟩

/-- One iteration of the sender keeps the ranges, and the invariant of an active session unless it ends the session. -/
theorem sndIter_keeps (dg : Option (List Byte)) (hp : 1 ≤ s.cfg.psize) (hc : s.SenderConfigured)
    (hv : s.snd.InRange s.time) (hr : s.snd.Running s.finalPacket s.finalPacket s.cfg.window.toNat) :
    (sndIter s s.time dg).1.InRange s.time ∧ ((sndIter s s.time dg).1.act = true →
      (sndIter s s.time dg).1.Running s.finalPacket s.finalPacket s.cfg.window.toNat) := by
  obtain ⟨hv₁, hgoes, hends⟩ := sndInbound_keeps (cs := s.cfg.csen) dg hv hr
  rcases sndIter_cases s s.time dg with ⟨hend, h⟩ | ⟨hgo, u, rfl, h | h⟩ <;> rw [h]
  · exact ⟨hv₁, fun hact => by simp [hends hend] at hact⟩
  · exact ⟨hv₁.retransmit.ended, nofun⟩
  · obtain ⟨hv₂, hr₂⟩ := sndSend_keeps hp hc hv₁.retransmit (hgoes hgo).retransmit
    exact ⟨hv₂, fun _ => hr₂⟩

/-- One iteration keeps the exact ranges, if its datagram is no early ACK. -/
theorem sndIter_keeps_exact (dg : Option (List Byte)) (hc : s.SenderConfigured)
    (hv : s.snd.InRange s.time) (hr : s.snd.Running s.finalPacket s.finalPacket s.cfg.window.toNat)
    (he : s.snd.Exact s.finalPacket)
    (hearly : ∀ d ∈ dg, (decodePkt d s.cfg.csen).status = .ok → (decodePkt d s.cfg.csen).payload = ctlAck →
      s.snd.lastPacket = -1 → (decodePkt d s.cfg.csen).seq.toNat < s.finalPacket) :
    (sndIter s s.time dg).1.act = true → (sndIter s s.time dg).1.Exact s.finalPacket := by
  obtain ⟨hv₁, hgoes, -⟩ := sndInbound_keeps (cs := s.cfg.csen) dg hv hr
  have he₁ : (sndInbound s.cfg.csen s.time dg s.snd).1.Exact s.finalPacket := by
    cases dg with
    | none => exact he
    | some d =>
      rcases sndInbound_some s.cfg.csen s.time d s.snd with ⟨hok, hpay, -, h⟩ | ⟨-, -, h⟩ | ⟨-, h⟩ <;> rw [h]
      · exact he.acked (hearly d rfl hok hpay)
      · exact { he with }
      · exact he
  rcases sndIter_cases s s.time dg with ⟨-, h⟩ | ⟨hgo, u, rfl, h | h⟩ <;> rw [h]
  · exact fun _ => he₁
  · exact nofun
  · have he₂ := he₁.retransmit (rto := s.cfg.rto) hv₁
    rcases sndSend_cases s s.time _ with ⟨-, h⟩ | ⟨k, hk, -, hbar, h⟩ | ⟨-, h⟩ <;> rw [h]
    · exact fun _ => he₂.tornDown
    · exact fun _ => he₂.sent hv₁.retransmit (hgoes hgo).retransmit hc.final_le hk hbar
    · exact fun _ => he₂

end SenderIteration

end Sys2Proof.Machine

/-! # Every step keeps the state legal -/
namespace Sys2Proof.Machine

section LegalParts
variable {i : Instr} {s t u : State}

/-- `State.Legal` with the sessions' part on the session variables. -/
theorem State.legal_iff :
    s.Legal ↔ s.params.Legal ∧ s.MemoryOk ∧ s.RegistersOk ∧ s.QueueOk ∧ s.Sessions :=
  and_congr_right fun _ => and_congr_right fun _ => and_congr_right fun hreg => and_congr_right fun _ =>
    State.sessions_iff hreg.1.1

/-! ## Memories -/

theorem State.MemoryOk.afterSend {dst : AddrTag} {o : Option (List Byte)} (h : s.MemoryOk)
    (hfit : ∀ p ∈ o, p.length ≤ s.params.rbufCap) : (s.afterSend dst o).MemoryOk := by
  cases o with
  | none => exact h
  | some p =>
    obtain ⟨hpld, htxp, htbuf, habuf⟩ := h
    exact ⟨hpld, Mem.wf_writeBytes p 0 (by simpa using hfit p rfl) htxp, htbuf, habuf⟩

theorem State.MemoryOk.afterRcvIter {d : Datagram} (h : s.MemoryOk) : (rcvIter d s).1.MemoryOk := by
  rcases rcvIter_cases d s with hr | ⟨u, rfl, hr | hr | ⟨p, -, hfit, hr⟩ | hr⟩ <;> rw [hr]
  case inr.inr.inr.inl =>
    obtain ⟨hpld, htxp, htbuf, habuf⟩ := h
    exact ⟨hpld, htxp, htbuf, Mem.wf_writeBytes _ _ hfit habuf⟩
  all_goals exact h

theorem Effect.memoryOk (h : Effect i s u) (hm : s.MemoryOk) : u.MemoryOk := by
  obtain ⟨hpld, htxp, htbuf, habuf⟩ := id hm
  cases h with
  | cfgWr hreg hlock hval => simpa [State.MemoryOk] using hm
  | bufWrbPld haddr => exact ⟨Mem.wf_write _ haddr hpld, htxp, htbuf, habuf⟩
  | bufWrbTxp haddr => exact ⟨hpld, Mem.wf_write _ haddr htxp, htbuf, habuf⟩
  | frEnc hpay hp hfit => exact ⟨hpld, Mem.wf_writeBytes _ 0 (by simpa using hfit) htxp, htbuf, habuf⟩
  | sndStep hact hr hfit => exact State.MemoryOk.afterSend hm hfit
  | rcvStep hact hq hfit => exact (State.MemoryOk.afterRcvIter (s := s.popRx) hm).afterSend (by simpa using hfit)
  | _ => exact hm

/-! ## Registers -/

/-- HOLD is 0 while no byte waits, after any bytes (40_checksum.md R96). -/
theorem Csu.put_hold (c : Csu) (b : Byte) : (c.put b).odd = false → (c.put b).hold = 0 := by
  unfold Csu.put
  split <;> simp

theorem Csu.putAll_hold {c : Csu} (h : c.odd = false → c.hold = 0) (bs : List Byte) :
    (c.putAll bs).odd = false → (c.putAll bs).hold = 0 := by
  induction bs generalizing c with
  | nil => exact h
  | cons b bs ih => exact ih (c.put_hold b)

theorem State.QueueOk.rxpBytes_length_le (h : s.QueueOk) : s.rxpBytes.length ≤ s.params.rbufCap := by
  unfold State.rxpBytes
  split
  · exact Nat.zero_le _
  · rename_i d q hrxq
    exact h.2 d (by simp [hrxq])

/-- The valid bytes of a buffer are at most `RBUF_CAP` in a legal state. -/
theorem State.bufBytes_length_le {sp : Space} {bs : List Byte} (h : s.bufBytes sp = .ok bs) (hreg : s.RegistersOk)
    (hq : s.QueueOk) : bs.length ≤ s.params.rbufCap := by
  obtain ⟨-, hplen, htxlen, -⟩ := hreg
  rw [State.bufBytes_length h]
  cases sp with
  | pld => exact hplen
  | txp => exact htxlen
  | rxp => exact hq.rxpBytes_length_le
  | tbuf => exact Nat.zero_le _
  | abuf => exact Nat.zero_le _

theorem decodePkt_payload_length_le (d : List Byte) (cs : Bool) : (decodePkt d cs).payload.length ≤ d.length := by
  unfold decodePkt
  split
  · exact Nat.zero_le _
  · split <;> simp

/-- D_PLEN is at most the datagram's length, and D_POFF is 0, 4 or 6 (10_state.md R23). -/
theorem decRegsOf_ranges (d : List Byte) (cs : Bool) :
    (decRegsOf d cs).plen ≤ d.length ∧
      ((decRegsOf d cs).poff = 0 ∨ (decRegsOf d cs).poff = 4 ∨ (decRegsOf d cs).poff = 6) := by
  unfold decRegsOf
  dsimp only
  split
  · exact ⟨Nat.zero_le _, .inl rfl⟩
  · exact ⟨decodePkt_payload_length_le d cs, by cases cs <;> simp [hdr, Config.hdrCs, Config.hdrLg]⟩

theorem State.RegistersOk.afterSend {dst : AddrTag} {o : Option (List Byte)} (h : s.RegistersOk)
    (hfit : ∀ p ∈ o, p.length ≤ s.params.rbufCap) : (s.afterSend dst o).RegistersOk := by
  cases o with
  | none => exact h
  | some p =>
    obtain ⟨hpsize, hplen, -, hrest⟩ := h
    exact ⟨hpsize, hplen, hfit p rfl, hrest⟩

/-- The registers after either reset (R43). -/
theorem State.registersOk_of_reset (hcfg : t.cfg = CfgRegs.reset) (hfr : t.fr = FrOps.reset)
    (hdec : t.dec = DecRegs.reset) (hcsu : t.csu = Csu.reset) : t.RegistersOk := by
  unfold State.RegistersOk
  rw [hcfg, hfr, hdec, hcsu]
  exact ⟨⟨by decide, .inr rfl⟩, Nat.zero_le _, Nat.zero_le _, Nat.zero_le _, .inl rfl, fun _ => rfl⟩

theorem Effect.registersOk (h : Effect i s u) (hreg : s.RegistersOk) (hq : s.QueueOk) : u.RegistersOk := by
  obtain ⟨hpsize, hplen, htxlen, hdplen, hpoff, hhold⟩ := id hreg
  cases h with
  | sysRst => exact State.registersOk_of_reset rfl rfl rfl rfl
  | @cfgWr _ _ r _ _ hval =>
    obtain ⟨hpsize', hplen', htxlen'⟩ := writeReg_ranges s hval
    unfold State.RegistersOk
    rw [writeReg_params, writeReg_dec, writeReg_csu]
    exact ⟨by omega, by omega, by omega, hdplen, hpoff, hhold⟩
  | csClr => exact ⟨hpsize, hplen, htxlen, hdplen, hpoff, fun _ => rfl⟩
  | csPutb => exact ⟨hpsize, hplen, htxlen, hdplen, hpoff, Csu.put_hold _ _⟩
  | csPuth => exact ⟨hpsize, hplen, htxlen, hdplen, hpoff, Csu.putAll_hold hhold _⟩
  | csBuf hsp hbs => exact ⟨hpsize, hplen, htxlen, hdplen, hpoff, Csu.putAll_hold hhold _⟩
  | frEnc hpay hp hfit => exact ⟨hpsize, hplen, hfit, hdplen, hpoff, hhold⟩
  | frDec hsp hd =>
    obtain ⟨hle, hoff⟩ := decRegsOf_ranges _ s.cfg.csen
    exact ⟨hpsize, hplen, htxlen, hle.trans (State.bufBytes_length_le (s := s) hd hreg hq), hoff, hhold⟩
  | sndStep hact hr hfit => exact State.RegistersOk.afterSend hreg hfit
  | rcvStep hact hq' hfit =>
    refine State.RegistersOk.afterSend ?_ (by simpa using hfit)
    simpa [State.RegistersOk] using hreg
  | _ => exact hreg

/-! ## The receive queue -/

/-- A queue that only lost entries stays bounded. -/
theorem State.QueueOk.of_sublist (h : s.QueueOk) (hparams : t.params = s.params) (hsub : t.rxq.Sublist s.rxq) :
    t.QueueOk := by
  obtain ⟨hlen, hcap⟩ := h
  unfold State.QueueOk
  rw [hparams]
  exact ⟨hsub.length_le.trans hlen, fun d hd => hcap d (hsub.subset hd)⟩

/-- No operation adds to RXQ (20_memory.md R53). -/
theorem Effect.rxq_sublist (h : Effect i s u) : u.rxq.Sublist s.rxq := by
  cases h <;> simp [List.tail_sublist]

/-! ## The sessions -/

theorem State.SenderConfigured.congr (h : s.SenderConfigured) (hparams : t.params = s.params) (hcfg : t.cfg = s.cfg)
    (hlen : t.snd.len = s.snd.len) : t.SenderConfigured := by
  obtain ⟨hroom, hwindow, hrto, hkill, hfinal⟩ := h
  refine ⟨?_, ?_, ?_, ?_, ?_⟩
  · simpa [State.frameTooBig, hparams, hcfg] using hroom
  · rwa [hcfg]
  · rwa [hcfg]
  · rwa [hcfg]
  · rwa [State.finalPacket, hlen, hcfg]

/-- A session's state is all in the registers of its controller, the configuration, the parameters and TIME. -/
theorem State.Sessions.congr (h : s.Sessions) (hparams : t.params = s.params) (hcfg : t.cfg = s.cfg)
    (hsnd : t.snd = s.snd) (hrcv : t.rcv = s.rcv) (htime : t.time = s.time) : t.Sessions := by
  have hfinal : t.finalPacket = s.finalPacket := by rw [State.finalPacket, hsnd, hcfg, State.finalPacket]
  have hbig : t.frameTooBig = s.frameTooBig := by rw [State.frameTooBig, hparams, hcfg, State.frameTooBig]
  obtain ⟨hs, hr, hsending, hreceiving⟩ := h
  refine ⟨by rwa [hsnd, htime], by rwa [hrcv, hparams], fun hact => ?_, fun hact => ?_⟩
  · rw [hsnd] at hact ⊢
    obtain ⟨halone, hc, hrun⟩ := hsending hact
    exact ⟨by rwa [hrcv], hc.congr hparams hcfg (by rw [hsnd]), by rwa [hfinal, hcfg]⟩
  · rw [hrcv] at hact ⊢
    rw [hsnd, hbig]
    exact hreceiving hact

/-- Both sessions after either reset (R43). -/
theorem State.sessions_of_reset (hsnd : t.snd = Snd.reset) (hrcv : t.rcv = Rcv.reset) : t.Sessions := by
  refine ⟨?_, ?_, ?_, ?_⟩
  · rw [hsnd]
    refine ⟨rfl, by decide, by decide, nofun, Nat.zero_le _, Nat.zero_le _, fun _ => rfl, by decide, .inl (by decide),
      by decide, fun k hk => ?_⟩
    cases hk
    exact .inl (Nat.zero_le _)
  · rw [hrcv]
    exact ⟨by decide, by decide, Nat.zero_le _⟩
  · rw [hsnd]
    nofun
  · rw [hrcv]
    nofun

/-- The sender's variables right after `SND.START` (42_sender_arq.md R131). -/
theorem sndFresh_inRange : (sndFresh s).InRange s.time := by
  refine ⟨rfl, by simp [sndFresh], by simp [sndFresh], nofun, le_rfl, Nat.zero_le _, fun _ => rfl, by simp [sndFresh],
    .inl (by simp [sndFresh]), BitVec.isLt _, fun k hk => ?_⟩
  cases hk
  exact .inl (Nat.zero_le _)

theorem sndFresh_running (K : Nat) : (sndFresh s).Running K K s.cfg.window.toNat := by
  refine ⟨rfl, rfl, le_rfl, fun h => absurd rfl h, .inl ?_, fun _ => rfl, fun _ k hk => ?_⟩
  · simp only [sndFresh]
    omega
  · cases hk
    exact Nat.zero_le _

theorem sndFresh_exact (K : Nat) : (sndFresh s).Exact K := by
  refine ⟨fun k hk => ?_, ?_, fun _ => ?_⟩
  · cases hk
    exact Nat.zero_le _
  · simp only [sndFresh]
    omega
  · simp only [sndFresh]
    omega

/-- The checks of `SND.START` (42_sender_arq.md R131). -/
theorem senderConfigured_of_start (h : sndConfigBad s = false) (hsnd : t.snd = sndFresh s) (hcfg : t.cfg = s.cfg)
    (hparams : t.params = s.params) : t.SenderConfigured := by
  simp only [sndConfigBad, Bool.or_eq_false_iff, Bool.and_eq_false_imp, decide_eq_false_iff_not, not_not] at h
  obtain ⟨⟨⟨⟨⟨hlen, hwindow⟩, hrto⟩, hkill⟩, hroom⟩, hfinal⟩ := h
  refine ⟨?_, ?_, ?_, ?_, ?_⟩
  · simpa [State.frameTooBig, hparams, hcfg] using hroom
  · rwa [hcfg]
  · rwa [hcfg]
  · rw [hcfg]
    exact fun h => by simpa using hkill h
  · rw [State.finalPacket, hsnd, hcfg]
    simpa [sndFresh] using hfinal

/-- No part of the iteration writes S_LEN. -/
theorem sndIter_len (s : State) (now : Dword) (dg : Option (List Byte)) : (sndIter s now dg).1.len = s.snd.len := by
  have hinbound : (sndInbound s.cfg.csen now dg s.snd).1.len = s.snd.len := by
    cases dg with
    | none => rfl
    | some d =>
      rcases sndInbound_some s.cfg.csen now d s.snd with ⟨-, -, -, h⟩ | ⟨-, -, h⟩ | ⟨-, h⟩ <;> rw [h] <;> rfl
  have hretransmit (v : Snd) : (sndRetransmit s.cfg.rto now v).len = v.len := by
    rcases sndRetransmit_cases s.cfg.rto now v with h | ⟨-, h⟩ <;> rw [h]
  have hsend (v : Snd) : (sndSend s now v).1.len = v.len := by
    rcases sndSend_cases s now v with ⟨-, h⟩ | ⟨k, -, -, -, h⟩ | ⟨-, h⟩ <;> rw [h]
    · unfold sndTornDown
      split <;> rfl
    · unfold sndSent
      split <;> rfl
  rcases sndIter_cases s now dg with ⟨-, h⟩ | ⟨-, u, rfl, h | h⟩ <;> rw [h]
  · exact hinbound
  · exact (hretransmit _).trans hinbound
  · rw [hsend, hretransmit, hinbound]

theorem rcvFresh_inRange (cap : Nat) : rcvFresh.InRange cap :=
  ⟨by decide, by decide, Nat.zero_le _⟩

/-- One iteration of the receiver keeps the ranges; a session that goes on has not terminated (R155). -/
theorem rcvIter_keeps (d : Datagram) (h : s.rcv.InRange s.params.abufCap) (hterm : s.rcv.term = false) :
    (rcvIter d s).1.rcv.InRange s.params.abufCap ∧
      ((rcvIter d s).1.rcv.act = true → (rcvIter d s).1.rcv.term = false) := by
  rcases rcvIter_cases d s with hr | ⟨u, rfl, hr | hr | ⟨p, hseq, hfit, hr⟩ | hr⟩ <;> rw [hr]
  case inr.inl => exact ⟨h, nofun⟩
  case inr.inr.inr.inl =>
    obtain ⟨hrecvd0, -, -⟩ := h
    refine ⟨⟨?_, ?_, hfit⟩, fun _ => hterm⟩
    · simp only [rcvAppend]
      omega
    · have := p.seq.isLt
      simp only [rcvAppend]
      omega
  all_goals exact ⟨h, fun _ => hterm⟩

theorem Effect.sessions (h : Effect i s u) (hp : 1 ≤ s.cfg.psize) (hs : s.Sessions) : u.Sessions := by
  cases h with
  | sysRst => exact State.sessions_of_reset rfl rfl
  | cfgWr hreg hlock hval =>
    rcases writeReg_cfg_or_idle s s.port.wdata hlock with hcfg | ⟨hsnd, hrcv⟩
    · exact hs.congr (by simp) hcfg (by simp) (by simp) (by simp)
    · refine ⟨by simpa using hs.snd, by simpa using hs.rcv, fun h => ?_, fun h => ?_⟩
      · simp [hsnd] at h
      · simp [hrcv] at h
  | sndStart hact hcfg =>
    obtain ⟨-, hrcv⟩ := s.sessionActive_eq_false.mp hact
    exact ⟨sndFresh_inRange, hs.rcv,
      fun _ => ⟨hrcv, senderConfigured_of_start hcfg rfl rfl rfl, sndFresh_running _⟩, fun h => by simp [hrcv] at h⟩
  | sndStep hact hr hfit =>
    subst hr
    obtain ⟨hrcv, hc, hrun⟩ := hs.sending hact
    obtain ⟨hv, hgoes⟩ := sndIter_keeps (s.rxq.head?.map (·.bytes)) hp hc hs.snd hrun
    refine ⟨by simpa using hv, by simpa using hs.rcv, fun h => ⟨by simpa using hrcv, ?_, ?_⟩, fun h => ?_⟩
    · exact hc.congr (by simp) (by simp) (by simp [sndIter_len])
    · simpa [State.finalPacket, sndIter_len] using hgoes (by simpa using h)
    · simp [hrcv] at h
  | rcvStart hact hroom =>
    obtain ⟨hsnd, -⟩ := s.sessionActive_eq_false.mp hact
    exact ⟨hs.snd, rcvFresh_inRange _, fun h => by simp [hsnd] at h, fun _ => ⟨hsnd, rfl, hroom⟩⟩
  | @rcvStep _ d _ hact hq hfit =>
    obtain ⟨hsnd, hterm, hroom⟩ := hs.receiving hact
    obtain ⟨hr, hgoes⟩ := rcvIter_keeps (s := s.popRx) d hs.rcv hterm
    refine ⟨by simpa using hs.snd, by simpa using hr, fun h => by simp [hsnd] at h,
      fun h => ⟨by simpa using hsnd, ?_, ?_⟩⟩
    · simpa using hgoes (by simpa using h)
    · simpa [State.frameTooBig] using hroom
  | _ => exact hs.congr rfl rfl rfl rfl rfl

end LegalParts

/-! ## The steps -/

section Steps
variable {i : Instr} {s t u : State}

/-- What a step must keep: the legal state, and with no early ACK at the head of RXQ the exact ranges. -/
def State.Keeps (s t : State) : Prop :=
  t.Legal ∧ (s.SenderExact → s.NoEarlyAck → t.SenderExact)

theorem State.SenderExact.congr (h : s.SenderExact) (hcfg : t.cfg = s.cfg) (hsnd : t.snd = s.snd) : t.SenderExact := by
  unfold State.SenderExact at h ⊢
  simpa only [dataPayload_length, State.finalPacket, hcfg, hsnd] using h

/-- A step that leaves the session variables and the configuration keeps the exact ranges. -/
theorem State.keeps_of_same_session (h : t.Legal) (hcfg : t.cfg = s.cfg) (hsnd : t.snd = s.snd) : s.Keeps t :=
  ⟨h, fun he _ => he.congr hcfg hsnd⟩

theorem Effect.legal (h : Effect i s u) (hs : s.Legal) : u.Legal := by
  obtain ⟨hparams, hmem, hreg, hq, hsess⟩ := State.legal_iff.mp hs
  obtain ⟨-, hp, -⟩ := h.common
  exact State.legal_iff.mpr ⟨by rwa [hp], h.memoryOk hmem, h.registersOk hreg hq, hq.of_sublist hp h.rxq_sublist,
    h.sessions hreg.1.1 hsess⟩

/-- The exact ranges of the sender, on the session variables, in a legal state. -/
theorem State.Legal.senderExact_iff (hs : s.Legal) :
    s.SenderExact ↔ (s.snd.act = true → s.snd.Exact s.finalPacket) := by
  obtain ⟨-, -, hreg, -, hsess⟩ := State.legal_iff.mp hs
  exact State.senderExact_iff hreg.1.1 hsess

theorem Effect.keeps (h : Effect i s u) (hs : s.Legal) : s.Keeps u := by
  have hu := h.legal hs
  cases h with
  | sysRst => exact ⟨hu, fun _ _ h => by cases h⟩
  | cfgWr hreg hlock hval =>
    rcases writeReg_cfg_or_idle s s.port.wdata hlock with hcfg | ⟨hsnd, -⟩
    · exact State.keeps_of_same_session hu hcfg (by simp)
    · exact ⟨hu, fun _ _ h => by simp [hsnd] at h⟩
  | sndStart hact hcfg => exact ⟨hu, fun _ _ => hu.senderExact_iff.mpr fun _ => sndFresh_exact _⟩
  | sndStep hact hr hfit =>
    subst hr
    refine ⟨hu, fun he hearly => hu.senderExact_iff.mpr fun h => ?_⟩
    obtain ⟨-, -, -, -, hsess⟩ := State.legal_iff.mp hs
    obtain ⟨-, hc, hrun⟩ := hsess.sending hact
    have hexact := sndIter_keeps_exact (s.rxq.head?.map (·.bytes)) hc hsess.snd hrun (hs.senderExact_iff.mp he hact)
      (by simpa [State.NoEarlyAck] using hearly) (by simpa using h)
    simpa [State.finalPacket, sndIter_len] using hexact
  | rcvStep hact hq hfit => exact State.keeps_of_same_session hu (by simp) (by simp)
  | _ => exact State.keeps_of_same_session hu rfl rfl

/-- The port and STATUS are no part of a legal state. -/
theorem State.Keeps.of_port_stat (p : Port) (st : StatRegs) (h : s.Keeps t) :
    s.Keeps { t with port := p, stat := st } := h

theorem exec_keeps (hs : s.Legal) (h : exec i s = .next t) : s.Keeps t := by
  cases exec_completes h with
  | faulted f hf => exact (State.keeps_of_same_session hs rfl rfl).of_port_stat _ _
  | foundEmpty => exact (State.keeps_of_same_session hs rfl rfl).of_port_stat _ _
  | done rd he => exact (he.keeps hs).of_port_stat _ _

theorem hostOp_keeps {cmd : Word} {wdata : Dword} (hs : s.Legal) (h : hostOp cmd wdata s = .next t) : s.Keeps t := by
  unfold hostOp at h
  split at h
  · exact exec_keeps (s := { s with port := { s.port with wdata := wdata } }) hs h
  · cases h
    exact (State.keeps_of_same_session hs rfl rfl).of_port_stat _ _

theorem autoStep_keeps (hs : s.Legal) (h : autoStep s = .next t) : s.Keeps t := by
  unfold autoStep at h
  split at h
  · obtain ⟨u, hu, rfl⟩ := discardCompletion_next h
    exact (exec_keeps (i := .sndStep) hs hu).of_port_stat _ _
  · split at h
    · obtain ⟨u, hu, rfl⟩ := discardCompletion_next h
      exact (exec_keeps (i := .rcvStep) hs hu).of_port_stat _ _
    · cases h
      exact State.keeps_of_same_session hs rfl rfl

/-- A delivery adds an entry only where there is room (20_memory.md R60). -/
theorem State.Legal.deliver (hs : s.Legal) (src : AddrTag) (d : List Byte) : s.Keeps (s.deliver src d) := by
  rcases State.deliver_cases s src d with ⟨-, h⟩ | ⟨-, -, h⟩ | ⟨hlen, hroom, h⟩ <;> rw [h]
  · exact (State.keeps_of_same_session hs rfl rfl).of_port_stat _ _
  · exact (State.keeps_of_same_session hs rfl rfl).of_port_stat _ _
  · obtain ⟨hparams, hmem, hreg, ⟨hdepth, hcap⟩, hsess⟩ := State.legal_iff.mp hs
    refine State.keeps_of_same_session (State.legal_iff.mpr
      ⟨hparams, hmem, hreg, ⟨?_, fun e he => ?_⟩, hsess.congr rfl rfl rfl rfl rfl⟩) rfl rfl
    · simp only [List.length_append, List.length_singleton]
      omega
    · rcases List.mem_append.mp he with he | he
      · exact hcap e he
      · rw [List.mem_singleton.mp he]
        exact hlen

theorem State.Legal.hostStore {a : Nat} {b : Byte} (hs : s.Legal) (h : s.hostStore a b = .ok t) : s.Keeps t := by
  obtain ⟨ha, rfl⟩ := State.hostStore_ok.mp h
  obtain ⟨hparams, ⟨hpld, htxp, htbuf, habuf⟩, hreg, hq, hsess⟩ := State.legal_iff.mp hs
  exact State.keeps_of_same_session (State.legal_iff.mpr
    ⟨hparams, ⟨hpld, htxp, Mem.wf_write b ha htbuf, habuf⟩, hreg, hq, hsess.congr rfl rfl rfl rfl rfl⟩) rfl rfl

theorem State.Legal.hardReset (hs : s.Legal) : s.Keeps s.hardReset := by
  obtain ⟨hparams, ⟨-, -, htbuf, habuf⟩, -, -, -⟩ := State.legal_iff.mp hs
  exact ⟨State.legal_iff.mpr ⟨hparams, ⟨rfl, rfl, htbuf, habuf⟩, State.registersOk_of_reset rfl rfl rfl rfl,
    ⟨Nat.zero_le _, nofun⟩, State.sessions_of_reset rfl rfl⟩, fun _ _ h => by cases h⟩

/-- TIME as a number after TICK (10_state.md R31, U9). -/
theorem State.tick_time (s : State) : s.tick.time.toNat = min (s.time.toNat + 1) 18446744073709551615 := by
  have := s.time.isLt
  unfold State.tick
  split
  · omega
  · have h1 : (1 : Dword).toNat = 1 := rfl
    simp only [BitVec.toNat_add, h1]
    omega

/-- TICK writes TIME only. -/
theorem State.tick_frame (s : State) : s.tick = { s with time := s.tick.time } := by
  unfold State.tick
  split <;> rfl

/-- The time stamps stay in the past. -/
theorem Snd.InRange.later {now now' : Dword} {v : Snd} (h : v.InRange now) (hle : now.toNat ≤ now'.toNat) :
    v.InRange now' :=
  { h with rtxT0_le := h.rtxT0_le.trans hle, tdT0_le := h.tdT0_le.trans hle }

theorem State.Legal.tick (hs : s.Legal) : s.Keeps s.tick := by
  have hle : s.time.toNat ≤ s.tick.time.toNat := by
    have := s.time.isLt
    rw [State.tick_time]
    omega
  rw [State.tick_frame]
  obtain ⟨hparams, hmem, hreg, hq, hsess⟩ := State.legal_iff.mp hs
  refine State.keeps_of_same_session (State.legal_iff.mpr ⟨hparams, hmem, hreg, hq, ?_⟩) rfl rfl
  obtain ⟨hv, hr, hsending, hreceiving⟩ := hsess
  exact ⟨hv.later hle, hr, fun hact =>
    have ⟨halone, hc, hrun⟩ := hsending hact
    ⟨halone, hc.congr rfl rfl rfl, hrun⟩, hreceiving⟩

theorem runEvent_keeps {e : Event} (hs : s.Legal) (h : runEvent e s = .next t) : s.Keeps t := by
  cases e with
  | host cmd wdata => exact hostOp_keeps hs h
  | tick => cases h; exact hs.tick
  | netIn src d => cases h; exact hs.deliver src d
  | auto => exact autoStep_keeps hs h
  | hwReset => cases h; exact hs.hardReset
  | hostStore a b =>
    obtain ⟨u, hu, h⟩ := withMem_next h
    cases h
    exact hs.hostStore hu

/-- Settles O55: each agent's step keeps the legal state and the exact ranges; the schedule is no part of either. -/
theorem everyStepKeepsTheStateLegal : Obligations.EveryStepKeepsTheStateLegal := by
  intro s t hs h
  unfold step at h
  split at h
  · cases h
    exact ⟨hs, fun he _ => he⟩
  · rename_i e rest hsched
    exact runEvent_keeps (s := { s with sched := rest }) hs h

/-- Settles O54: the reset values are in every range, and no session is active. -/
theorem resetStateIsLegal : Obligations.ResetStateIsLegal :=
  ⟨State.legal_iff.mpr ⟨by decide, ⟨rfl, rfl, rfl, rfl⟩, State.registersOk_of_reset rfl rfl rfl rfl,
    ⟨Nat.zero_le _, nofun⟩, State.sessions_of_reset rfl rfl⟩, fun h => by cases h⟩

end Steps

end Sys2Proof.Machine

/-! # The register map: read-outs, refusals, STATUS -/
namespace Sys2Proof.Machine

/-! ## `CFG.RD` -/

section CfgRd
variable {s : State} {reg : BitVec 8} {r : Reg}

/-- `CFG.RD` of a register of the map completes with its read-out (44_system.md R167). -/
theorem exec_cfgRd (h : regOf reg = some r) : exec (.cfgRd reg) s = .next (s.done (readReg s r)) := by
  change execCfgRd reg s = _
  simp only [execCfgRd, h, State.complete_ok]

/-- The same with the read-out's value. -/
theorem exec_cfgRd_eq {v : Dword} (h : regOf reg = some r) (hv : readReg s r = v) :
    exec (.cfgRd reg) s = .next (s.done v) := by
  rw [exec_cfgRd h, hv]

/-- -1 reads as all ones, a natural number as itself (10_state.md R35, R39). -/
theorem sext64_neg_one : sext64 (-1) = 0xFFFFFFFFFFFFFFFF := by decide

theorem sext64_natCast (n : Nat) : sext64 n = BitVec.ofNat 64 n := BitVec.ofInt_natCast 64 n

/-- S_STATE by the session variables (10_state.md R36). -/
theorem readReg_sState (s : State) :
    readReg s .sState =
      if s.snd.term then 5 else if s.snd.act = false then 0
        else if s.snd.toSend = .tearingDown then (if s.snd.tdValid then 4 else 3)
        else if s.snd.lastPacket = -1 then 1 else 2 := by
  change BitVec.ofNat 64 (sndStateOf s.snd).code = _
  cases hterm : s.snd.term
  · cases hact : s.snd.act
    · simp [sndStateOf, hterm, hact, SndState.code]
    · cases hto : s.snd.toSend with
      | sending k => by_cases hlp : s.snd.lastPacket = -1 <;> simp [sndStateOf, hterm, hact, hto, hlp, SndState.code]
      | tearingDown => cases htd : s.snd.tdValid <;> simp [sndStateOf, hterm, hact, hto, htd, SndState.code]
  · simp [sndStateOf, hterm, SndState.code]

/-- D_STAT by the outcome of the last decode (10_state.md R23). -/
theorem readReg_dStat (s : State) :
    readReg s .dStat =
      if s.dec.stat = .ok then 0 else if s.dec.stat = .badsum then 1 else if s.dec.stat = .runt then 2 else 3 := by
  change BitVec.ofNat 64 s.dec.stat.code = _
  cases s.dec.stat <;> rfl

/-- Settles O25: each register's read-out, by the value it shows. -/
theorem sessionReadOut : Obligations.SessionReadOut := by
  intro s
  have hlastAck {v : Int} (h : s.snd.lastAck = v) : readReg s .sLastack = sext64 v := congrArg sext64 h
  have hlastPacket {v : Int} (h : s.snd.lastPacket = v) : readReg s .sLastpkt = sext64 v := congrArg sext64 h
  have hlastRecvd {v : Int} (h : s.rcv.lastRecvd = v) : readReg s .rLastrecvd = sext64 v := congrArg sext64 h
  have htoSend {v : ToSend} (h : s.snd.toSend = v) : readReg s .sTosend = toSendWord v := congrArg toSendWord h
  have hstate {a t : Bool} (ha : s.rcv.act = a) (ht : s.rcv.term = t) :
      readReg s .rState = if a then 1 else if t then 2 else 0 := by
    subst ha ht
    change BitVec.ofNat 64 (rcvStateOf s.rcv).code = _
    unfold rcvStateOf
    split
    · rfl
    · split <;> rfl
  refine ⟨fun h => exec_cfgRd_eq rfl ((hlastAck h).trans sext64_neg_one),
    fun h => exec_cfgRd_eq rfl ((hlastPacket h).trans sext64_neg_one),
    fun h => exec_cfgRd_eq rfl ((hlastRecvd h).trans sext64_neg_one),
    fun n h => exec_cfgRd_eq rfl ((hlastAck h).trans (sext64_natCast n)),
    fun n h => exec_cfgRd_eq rfl ((hlastPacket h).trans (sext64_natCast n)),
    fun n h => exec_cfgRd_eq rfl ((hlastRecvd h).trans (sext64_natCast n)),
    fun h => exec_cfgRd_eq rfl (htoSend h),
    fun k h => exec_cfgRd_eq rfl (htoSend h),
    exec_cfgRd_eq rfl (readReg_sState s),
    fun ha ht => exec_cfgRd_eq rfl (hstate ha ht),
    fun ha ht => exec_cfgRd_eq rfl (hstate ha ht),
    fun ha ht => exec_cfgRd_eq rfl (hstate ha ht), ?_⟩
  and_intros <;> exact exec_cfgRd_eq rfl rfl

/-- Settles O26: each register's read-out, by the value it shows. -/
theorem registersReadZeroExtended : Obligations.RegistersReadZeroExtended := by
  intro s
  have hrxcnt (h : s.rxq.length < 65536) : readReg s .rxcnt = BitVec.ofNat 64 s.rxq.length :=
    congrArg (BitVec.ofNat 64) (Nat.mod_eq_of_lt h)
  have hrxlen {q : List Datagram} (h : s.rxq = q) :
      readReg s .rxlen = BitVec.ofNat 64 ({ s with rxq := q } : State).rxpBytes.length := by subst h; rfl
  have hrxsrc {q : List Datagram} (h : s.rxq = q) :
      readReg s .rxsrc = ({ s with rxq := q } : State).rxSrc.setWidth 64 := by subst h; rfl
  have hodd {o : Bool} (h : s.csu.odd = o) :
      readReg s .csOdd = if o then BitVec.ofNat 64 (1 + 256 * s.csu.hold.toNat) else 0 := by subst h; rfl
  refine ⟨?_, ?_, ?_, ?_, ?_, ?_, ?_, ?_, ?_, ?_, ?_,
    fun h => exec_cfgRd_eq rfl (hrxcnt h),
    fun h => ⟨exec_cfgRd_eq rfl (hrxlen h), exec_cfgRd_eq rfl (hrxsrc h)⟩,
    fun d q h => ⟨exec_cfgRd_eq rfl (hrxlen h), exec_cfgRd_eq rfl (hrxsrc h)⟩,
    exec_cfgRd_eq rfl (readReg_dStat s), ?_, ?_, ?_, ?_, ?_,
    fun h => exec_cfgRd_eq rfl (hodd h), fun h => exec_cfgRd_eq rfl (hodd h), ?_⟩
  all_goals exact exec_cfgRd_eq rfl rfl

end CfgRd

/-! ## STATUS -/

/-- The bits of STATUS, from bit 0 up (10_state.md R26). -/
def State.statusBits (s : State) : List Bool :=
  [s.stat.err, decide (0 < s.rxq.length), s.stat.rxovr, s.stat.rxbig, s.snd.act, s.snd.term, s.snd.forced,
    s.snd.tdValid, s.rcv.act, s.rcv.term, s.stat.rOvf, decide (s.dec.stat = .ok)]

theorem statusWord_eq_ofBoolListLE (s : State) :
    statusWord s = (BitVec.ofBoolListLE s.statusBits).setWidth 64 := by
  apply BitVec.eq_of_toNat_eq
  unfold statusWord State.statusBits
  simp only [BitVec.ofBoolListLE, BitVec.toNat_setWidth, BitVec.toNat_ofNat, BitVec.toNat_concat]
  congr 1
  simp only [List.length_nil, BitVec.toNat_ofNat, Nat.zero_mod, zero_mul, zero_add]
  omega

/-- STATUS bit by bit. -/
theorem statusWord_getLsbD (s : State) (i : Nat) : (statusWord s).getLsbD i = s.statusBits.getD i false := by
  rw [statusWord_eq_ofBoolListLE, BitVec.getLsbD_setWidth, BitVec.getLsbD_ofBoolListLE]
  by_cases hi : i < 64
  · simp [hi]
  · have hlen : s.statusBits.length ≤ i := le_trans (by decide : 12 ≤ 64) (not_lt.mp hi)
    rw [List.getD_eq_default _ _ hlen, Bool.and_false]

/-- Settles O27: STATUS is the list of its bits. -/
theorem statusBitsFollowTheMap : Obligations.StatusBitsFollowTheMap := by
  intro s
  refine ⟨statusWord s, exec_cfgRd_eq rfl rfl, ?_⟩
  simp only [statusWord_getLsbD]
  refine ⟨rfl, ?_, rfl, rfl, rfl, rfl, rfl, rfl, rfl, rfl, rfl, ?_, fun i hi => List.getD_eq_default _ _ hi⟩
  · simp [State.statusBits, List.length_pos_iff]
  · simp [State.statusBits]

/-- The bits of STATUS after a write to it: each sticky bit that the value has at 1 is cleared (44_system.md R166). -/
theorem statusBits_clearSticky (s : State) (v : Dword) (i : Nat) :
    ({ s with stat := clearSticky s.stat v } : State).statusBits.getD i false =
      (s.statusBits.getD i false && !(v.getLsbD i && (0x40D : Dword).getLsbD i)) := by
  by_cases hi : i < 12
  · interval_cases i <;> simp [State.statusBits, clearSticky]
  · rw [List.getD_eq_default _ _ (not_lt.mp hi), List.getD_eq_default _ _ (not_lt.mp hi), Bool.false_and]

/-- STATUS as a word after a write to it (10_state.md R26). -/
theorem statusWord_clearSticky (s : State) (v : Dword) :
    statusWord { s with stat := clearSticky s.stat v } = statusWord s &&& ~~~(v &&& 0x40D) := by
  refine BitVec.eq_of_getLsbD_eq fun i hi => ?_
  rw [BitVec.getLsbD_and, BitVec.getLsbD_not, BitVec.getLsbD_and, statusWord_getLsbD, statusWord_getLsbD,
    statusBits_clearSticky, decide_eq_true hi, Bool.true_and]

/-- Settles O22: STATUS is in no session's lock, every value is legal, and the write is `clearSticky`. -/
theorem cfgWrStatusClearsStickyBits : Obligations.CfgWrStatusClearsStickyBits := fun s =>
  ⟨_, rfl, statusWord_clearSticky s s.port.wdata, rfl, rfl, rfl⟩

/-! ## The refusals of `CFG.WR` -/

section CfgWr
variable {s : State} {reg : BitVec 8} {r : Reg}

/-- The first of the four checks of `CFG.WR` (44_system.md R166, 60_exceptions.md R173). -/
theorem exec_cfgWr_none (h : regOf reg = none) :
    exec (.cfgWr reg) s = .next (s.faulted 0x81 (encode (.cfgWr reg))) := by
  change execCfgWr reg s = _
  simp only [execCfgWr, h]
  rfl

/-- The second check (R174). -/
theorem exec_cfgWr_ro (h : regOf reg = some r) (hro : accessOf r = .ro) :
    exec (.cfgWr reg) s = .next (s.faulted 0x82 (encode (.cfgWr reg))) := by
  change execCfgWr reg s = _
  simp only [execCfgWr, h, if_pos hro]
  rfl

/-- The third check, the configuration lock (10_state.md R30). -/
theorem exec_cfgWr_locked (h : regOf reg = some r) (hro : accessOf r ≠ .ro) (hlock : lockedReg r = true)
    (hact : s.sessionActive = true) : exec (.cfgWr reg) s = .next (s.faulted 0x85 (encode (.cfgWr reg))) := by
  change execCfgWr reg s = _
  simp only [execCfgWr, h, if_neg hro, hlock, hact]
  rfl

/-- The fourth check (R175). -/
theorem exec_cfgWr_range (h : regOf reg = some r) (hro : accessOf r ≠ .ro)
    (hidle : (lockedReg r && s.sessionActive) = false) (hval : legalValue s.params r s.port.wdata = false) :
    exec (.cfgWr reg) s = .next (s.faulted 0x83 (encode (.cfgWr reg))) := by
  change execCfgWr reg s = _
  simp only [execCfgWr, h, if_neg hro, hidle, hval]
  rfl

/-- The register map by access class and lock: the numbers left out, the read-only registers, those the lock covers, the
other writable ones, and STATUS (10_state.md R28). -/
theorem regOf_cases {n : Nat} (hn : n = reg.toNat) :
    (((0x09 ≤ n ∧ n ≤ 0x0F) ∨ n = 0x1B ∨ n = 0x1F ∨ (0x29 ≤ n ∧ n ≤ 0x2F) ∨ 0x34 ≤ n) ∧ regOf reg = none) ∨
      (((0x11 ≤ n ∧ n ≤ 0x1A) ∨ (0x1C ≤ n ∧ n ≤ 0x1E) ∨ (0x20 ≤ n ∧ n ≤ 0x28) ∨ (0x30 ≤ n ∧ n ≤ 0x33)) ∧
        ∃ r, regOf reg = some r ∧ accessOf r = .ro) ∨
      (n ≤ 5 ∧ ∃ r, regOf reg = some r ∧ accessOf r = .rw ∧ lockedReg r = true) ∨
      ((6 ≤ n ∧ n ≤ 8) ∧ ∃ r, regOf reg = some r ∧ accessOf r = .rw ∧ lockedReg r = false) ∨
      (n = 0x10 ∧ regOf reg = some .status) := by
  unfold regOf
  split
  case h_37 =>
    refine .inl ⟨?_, rfl⟩
    simp only [imp_false, ← hn] at *
    omega
  case h_10 => exact .inr (.inr (.inr (.inr ⟨by omega, rfl⟩)))
  case h_1 | h_2 | h_3 | h_4 | h_5 | h_6 => exact .inr (.inr (.inl ⟨by omega, _, rfl, rfl, rfl⟩))
  case h_7 | h_8 | h_9 => exact .inr (.inr (.inr (.inl ⟨by omega, _, rfl, rfl, rfl⟩)))
  all_goals exact .inr (.inl ⟨by omega, _, rfl, rfl⟩)

/-- The values outside each writable register's range (44_system.md R166). -/
theorem legalValue_eq_false {n v cap : Nat} (hn : n = reg.toNat) (hv : v = s.port.wdata.toNat)
    (hcap : cap = s.params.rbufCap) (hreg : regOf reg = some r)
    (hbad : (n = 0 ∧ 8 ≤ v) ∨ (n = 1 ∧ (v = 0 ∨ cap - 4 < v)) ∨
      ((n = 2 ∨ n = 3 ∨ n = 4 ∨ n = 6) ∧ 4294967296 ≤ v) ∨ (n = 5 ∧ 281474976710656 ≤ v) ∨
      ((n = 7 ∨ n = 8) ∧ cap < v)) : legalValue s.params r s.port.wdata = false := by
  unfold regOf at hreg
  split at hreg <;> cases hreg
  case h_1 | h_2 | h_3 | h_4 | h_5 | h_6 | h_7 | h_8 | h_9 => exact decide_eq_false (by omega)
  all_goals omega

/-- Settles O23: the class of the register's number decides which check of `CFG.WR` refuses. -/
theorem cfgWrRefusalsInOrder : Obligations.CfgWrRefusalsInOrder := by
  intro s reg n v hn hv
  have hmap := regOf_cases hn
  refine ⟨fun h => ?none, fun h => ?ro, fun h hact => ?locked, fun h hidle hbad => ?range⟩
  case none =>
    obtain ⟨-, hnone⟩ | h' | ⟨h', -⟩ | ⟨h', -⟩ | ⟨h', -⟩ := hmap
    · exact exec_cfgWr_none hnone
    all_goals omega
  case ro =>
    obtain ⟨h', -⟩ | ⟨-, r, hreg, hro⟩ | ⟨h', -⟩ | ⟨h', -⟩ | ⟨h', -⟩ := hmap
    case inr.inl => exact exec_cfgWr_ro hreg hro
    all_goals omega
  case locked =>
    obtain ⟨h', -⟩ | ⟨h', -⟩ | ⟨-, r, hreg, hrw, hlock⟩ | ⟨h', -⟩ | ⟨h', -⟩ := hmap
    case inr.inr.inl => exact exec_cfgWr_locked hreg (by simp [hrw]) hlock (State.sessionActive_iff.mpr hact)
    all_goals omega
  case range =>
    obtain ⟨h', -⟩ | ⟨h', -⟩ | ⟨h', r, hreg, hrw, -⟩ | ⟨-, r, hreg, hrw, hlock⟩ | ⟨h', -⟩ := hmap
    case inr.inr.inl =>
      exact exec_cfgWr_range hreg (by simp [hrw]) (by simp [State.sessionActive, hidle h'])
        (legalValue_eq_false hn hv rfl hreg hbad)
    case inr.inr.inr.inl =>
      exact exec_cfgWr_range hreg (by simp [hrw]) (by simp [hlock]) (legalValue_eq_false hn hv rfl hreg hbad)
    all_goals omega

end CfgWr

end Sys2Proof.Machine

/-! # The agents' steps -/
namespace Sys2Proof.Machine

/-- One step is the event at the head of the schedule (assumption 6). -/
theorem step_of_sched {s : State} {e : Event} {rest : List Event} (h : s.sched = e :: rest) :
    step s = runEvent e { s with sched := rest } := by
  simp only [step, h]

/-- A command that decodes is its operation, on the operand that came with it (10_state.md R25). -/
theorem hostOp_of_decode {s : State} {w : Word} {d : Dword} {i : Instr} (h : decode w = .instr i) :
    hostOp w d s = exec i { s with port := { s.port with wdata := d } } := by
  simp only [hostOp, h]

/-- Settles O6: one step is the event at the head, and a command is its operation. -/
theorem stepRunsTheDecodedOperation : Obligations.StepRunsTheDecodedOperation := by
  intro s w d rest i hsched hdecode
  exact (step_of_sched hsched).trans (hostOp_of_decode hdecode)

/-- Settles O8: what TICK leaves, and TIME as a number. -/
theorem tickAddsOneToTime : Obligations.TickAddsOneToTime := by
  intro s rest hsched
  exact ⟨_, step_of_sched hsched, State.tick_frame _, State.tick_time _⟩

/-- Settles O9: the reset records of the model are the values R43 lists. -/
theorem hardwareResetGivesTheResetState : Obligations.HardwareResetGivesTheResetState := by
  intro s rest hsched
  exact step_of_sched hsched

end Sys2Proof.Machine

/-! # Who writes which memory, RXQ and the TX port -/
namespace Sys2Proof.Machine

section MemoryOwners
variable {i : Instr} {s t u : State}

/-! ## A completion writes no memory -/

@[simp] theorem State.byteAt_foundEmpty (s : State) (sp : Space) (a : Nat) :
    s.foundEmpty.byteAt sp a = s.byteAt sp a := by cases sp <;> rfl

@[simp] theorem State.byteAt_faulted (s : State) (code : BitVec 8) (cmd : Word) (sp : Space) (a : Nat) :
    (s.faulted code cmd).byteAt sp a = s.byteAt sp a := by cases sp <;> rfl

@[simp] theorem State.done_rxq (s : State) (rd : Dword) : (s.done rd).rxq = s.rxq := rfl
@[simp] theorem State.done_netOut (s : State) (rd : Dword) : (s.done rd).netOut = s.netOut := rfl
@[simp] theorem State.foundEmpty_rxq (s : State) : s.foundEmpty.rxq = s.rxq := rfl
@[simp] theorem State.foundEmpty_netOut (s : State) : s.foundEmpty.netOut = s.netOut := rfl
@[simp] theorem State.faulted_rxq (s : State) (code : BitVec 8) (cmd : Word) :
    (s.faulted code cmd).rxq = s.rxq := rfl
@[simp] theorem State.faulted_netOut (s : State) (code : BitVec 8) (cmd : Word) :
    (s.faulted code cmd).netOut = s.netOut := rfl

/-! ## A memory that was not written reads the same -/

/-- A byte of PLD changes only with PLD or the epoch (20_memory.md R51, R201). -/
theorem State.byteAt_pld_congr (hmem : u.pld = s.pld) (hepoch : u.epoch = s.epoch) (a : Nat) :
    u.byteAt .pld a = s.byteAt .pld a := by
  rw [State.byteAt_pld, State.byteAt_pld, hmem, hepoch]

/-- A byte of TXP changes only with TXP or the epoch (20_memory.md R52, R201). -/
theorem State.byteAt_txp_congr (hmem : u.txp = s.txp) (hepoch : u.epoch = s.epoch) (a : Nat) :
    u.byteAt .txp a = s.byteAt .txp a := by
  rw [State.byteAt_txp, State.byteAt_txp, hmem, hepoch]

/-- Host memory keeps its unwritten bytes over a hardware reset (10_state.md R43). -/
theorem State.byteAt_tbuf_congr (hmem : u.tbuf = s.tbuf) (a : Nat) : u.byteAt .tbuf a = s.byteAt .tbuf a := by
  rw [State.byteAt_tbuf, State.byteAt_tbuf, hmem]

theorem State.byteAt_abuf_congr (hmem : u.abuf = s.abuf) (a : Nat) : u.byteAt .abuf a = s.byteAt .abuf a := by
  rw [State.byteAt_abuf, State.byteAt_abuf, hmem]

/-! ## The owners -/

/-- TBUF is the HOST's: no operation writes it (20_memory.md R54). -/
theorem Effect.tbuf (h : Effect i s u) : u.tbuf = s.tbuf := by
  cases h <;> simp

/-- Settles O59: a fault and EMPTY write no memory, and of the effects each writes only what it owns. -/
theorem onlyOwnersWriteMemories : Obligations.OnlyOwnersWriteMemories := by
  intro i s t h
  cases exec_completes h with
  | faulted f hf => cases i <;> simp
  | foundEmpty => cases i <;> simp
  | @done u rd he =>
    obtain ⟨-, -, hepoch, -, -⟩ := he.common
    have hpld (hmem : u.pld = s.pld) := State.byteAt_pld_congr (u := u.done rd) hmem hepoch
    have htxp (hmem : u.txp = s.txp) := State.byteAt_txp_congr (u := u.done rd) hmem hepoch
    have habuf (hmem : u.abuf = s.abuf) := State.byteAt_abuf_congr (u := u.done rd) hmem
    refine ⟨State.byteAt_tbuf_congr he.tbuf, ?_⟩
    cases he with
    | bufWrbPld | bufWrbTxp => exact ⟨trivial, trivial, habuf rfl, rfl, rfl⟩
    | frEnc => exact ⟨hpld rfl, trivial, habuf rfl, rfl, rfl⟩
    | netTx => exact ⟨hpld rfl, htxp rfl, habuf rfl, rfl, trivial⟩
    | netRxpop | sndStart | rcvStart | sysRst => exact ⟨hpld rfl, htxp rfl, habuf rfl, trivial, rfl⟩
    | sndStep => exact ⟨hpld (by simp), trivial, habuf (by simp), trivial, trivial⟩
    | rcvStep => exact ⟨hpld (by simp), trivial, trivial, trivial, trivial⟩
    | cfgWr => exact ⟨hpld (by simp), htxp (by simp), habuf (by simp), by simp, by simp⟩
    | _ => exact ⟨hpld rfl, htxp rfl, habuf rfl, rfl, rfl⟩

end MemoryOwners

end Sys2Proof.Machine

/-! # What has left the block stays -/
namespace Sys2Proof.Machine

section Outputs
variable {i : Instr} {s t u : State}

/-- What a step may do to the block's outputs (20_memory.md R55, R62): leave ABUF below R_ALEN and add at most one
emitted datagram at the end. -/
def State.AddsOutput (s t : State) : Prop :=
  (∀ a, a < s.rcv.alen → t.byteAt .abuf a = s.byteAt .abuf a) ∧
    ∃ ds, t.netOut = s.netOut ++ ds ∧ ds.length ≤ 1

/-- A step that writes neither ABUF nor the TX port. -/
theorem State.addsOutput_of_same (habuf : t.abuf = s.abuf) (hout : t.netOut = s.netOut) : s.AddsOutput t :=
  ⟨fun a _ => State.byteAt_abuf_congr habuf a, [], by rw [hout, List.append_nil], Nat.zero_le 1⟩

/-- The port and STATUS are no output. -/
theorem State.AddsOutput.of_port_stat (p : Port) (st : StatRegs) (h : s.AddsOutput t) :
    s.AddsOutput { t with port := p, stat := st } := h

/-- A STEP emits at most one datagram (20_memory.md R62). -/
theorem State.afterSend_netOut (s : State) (dst : AddrTag) (o : Option (List Byte)) :
    ∃ ds, (s.afterSend dst o).netOut = s.netOut ++ ds ∧ ds.length ≤ 1 := by
  cases o with
  | none => exact ⟨[], (List.append_nil _).symm, Nat.zero_le 1⟩
  | some p => exact ⟨[{ tag := dst, bytes := p }], rfl, le_rfl⟩

/-- The receiver writes ABUF from R_ALEN on (43_receiver_arq.md R156). -/
theorem rcvAppend_abuf_below (payload : List Byte) (s : State) {a : Nat} (ha : a < s.rcv.alen) :
    (rcvAppend payload s).byteAt .abuf a = s.byteAt .abuf a := by
  have hout : ¬(s.rcv.alen ≤ a ∧ a < s.rcv.alen + payload.length) := by omega
  simp only [State.byteAt_abuf, rcvAppend, Mem.read?_writeBytes, if_neg hout]

theorem rcvIter_abuf_below (d : Datagram) (s : State) {a : Nat} (ha : a < s.rcv.alen) :
    (rcvIter d s).1.byteAt .abuf a = s.byteAt .abuf a := by
  rcases rcvIter_cases d s with h | ⟨u, rfl, h | h | ⟨p, -, -, h⟩ | h⟩ <;> rw [h]
  case inr.inr.inr.inl => exact rcvAppend_abuf_below p.payload _ ha
  all_goals rfl

/-- Only `NET.TX` and the two STEPs emit, and only `RCV.STEP` writes ABUF. -/
theorem Effect.addsOutput (h : Effect i s u) : s.AddsOutput u := by
  cases h with
  | netTx => exact ⟨fun _ _ => rfl, _, rfl, le_rfl⟩
  | sndStep => exact ⟨fun a _ => State.byteAt_abuf_congr (by simp) a, State.afterSend_netOut _ _ _⟩
  | @rcvStep _ d =>
    refine ⟨fun a ha => ?_, by simpa using State.afterSend_netOut (rcvIter d s.popRx).1 d.tag (rcvIter d s.popRx).2⟩
    calc _ = (rcvIter d s.popRx).1.byteAt .abuf a := State.byteAt_abuf_congr (by simp) a
      _ = s.popRx.byteAt .abuf a := rcvIter_abuf_below d s.popRx ha
      _ = s.byteAt .abuf a := rfl
  | cfgWr => exact State.addsOutput_of_same (by simp) (by simp)
  | _ => exact State.addsOutput_of_same rfl rfl

theorem exec_addsOutput (h : exec i s = .next t) : s.AddsOutput t := by
  cases exec_completes h with
  | faulted f hf => exact State.addsOutput_of_same rfl rfl
  | foundEmpty => exact State.addsOutput_of_same rfl rfl
  | done rd he => exact he.addsOutput.of_port_stat _ _

theorem hostOp_addsOutput {cmd : Word} {wdata : Dword} (h : hostOp cmd wdata s = .next t) : s.AddsOutput t := by
  unfold hostOp at h
  split at h
  · exact exec_addsOutput (s := { s with port := { s.port with wdata := wdata } }) h
  · cases h
    exact State.addsOutput_of_same rfl rfl

theorem autoStep_addsOutput (h : autoStep s = .next t) : s.AddsOutput t := by
  unfold autoStep at h
  split at h
  · obtain ⟨u, hu, rfl⟩ := discardCompletion_next h
    exact (exec_addsOutput (i := .sndStep) hu).of_port_stat _ _
  · split at h
    · obtain ⟨u, hu, rfl⟩ := discardCompletion_next h
      exact (exec_addsOutput (i := .rcvStep) hu).of_port_stat _ _
    · cases h
      exact State.addsOutput_of_same rfl rfl

/-- NET-IN writes RXQ and STATUS only (20_memory.md R60). -/
theorem State.deliver_addsOutput (s : State) (src : AddrTag) (d : List Byte) : s.AddsOutput (s.deliver src d) := by
  rcases State.deliver_cases s src d with ⟨-, h⟩ | ⟨-, -, h⟩ | ⟨-, -, h⟩ <;> rw [h]
  all_goals exact State.addsOutput_of_same rfl rfl

theorem runEvent_addsOutput {e : Event} (h : runEvent e s = .next t) : s.AddsOutput t := by
  cases e with
  | host cmd wdata => exact hostOp_addsOutput h
  | tick =>
    cases h
    rw [State.tick_frame]
    exact State.addsOutput_of_same rfl rfl
  | netIn src d => cases h; exact s.deliver_addsOutput src d
  | auto => exact autoStep_addsOutput h
  | hwReset => cases h; exact State.addsOutput_of_same rfl rfl
  | hostStore a b =>
    obtain ⟨u, hu, h⟩ := withMem_next h
    obtain ⟨-, rfl⟩ := State.hostStore_ok.mp hu
    cases h
    exact State.addsOutput_of_same rfl rfl

/-- Settles O60: each agent's step only adds to the outputs; the schedule is none of them. -/
theorem outputsAreOnlyAddedTo : Obligations.OutputsAreOnlyAddedTo := by
  intro s t h
  unfold step at h
  split at h
  · cases h
    exact State.addsOutput_of_same rfl rfl
  · rename_i e rest hsched
    exact runEvent_addsOutput (s := { s with sched := rest }) h

end Outputs

end Sys2Proof.Machine

/-! # NET-IN -/
namespace Sys2Proof.Machine

section NetIn
variable {s : State} {src : AddrTag} {d : List Byte}

theorem State.deliver_too_long (hlong : s.params.rbufCap < d.length) :
    s.deliver src d = { s with stat := { s.stat with rxbig := true } } :=
  if_pos hlong

theorem State.deliver_full (hfits : d.length ≤ s.params.rbufCap) (hfull : s.rxq.length = s.params.rxqDepth) :
    s.deliver src d = { s with stat := { s.stat with rxovr := true } } :=
  (if_neg hfits.not_gt).trans (if_pos hfull)

theorem State.deliver_enqueues (hfits : d.length ≤ s.params.rbufCap) (hroom : s.rxq.length ≠ s.params.rxqDepth) :
    s.deliver src d = { s with rxq := s.rxq ++ [{ tag := src, bytes := d }] } :=
  (if_neg hfits.not_gt).trans (if_neg hroom)

/-- Settles O7: a NET-IN step is one delivery, in the state without its event. -/
theorem netInDeliversOrDrops : Obligations.NetInDeliversOrDrops := by
  intro s src d rest hsched
  have hstep : step s = .next (State.deliver { s with sched := rest } src d) := step_of_sched hsched
  rw [hstep]
  exact ⟨fun hlong => congrArg _ (State.deliver_too_long hlong),
    fun hfits hfull => congrArg _ (State.deliver_full hfits hfull),
    fun hfits hroom => congrArg _ (State.deliver_enqueues hfits hroom)⟩

end NetIn

end Sys2Proof.Machine

/-! # Command words: decoding and encoding -/
namespace Sys2Proof

section BitFields
variable {w : Word} {hi lo : Nat}

/-! ## The bit fields of a word -/

theorem bits_lt (w : Word) (hi lo : Nat) : bits w hi lo < 2 ^ (hi + 1 - lo) :=
  Nat.mod_lt _ (Nat.two_pow_pos _)

/-- A bit field is its part above bit `mid` and its part up to it. -/
theorem bits_split (w : Word) {hi mid lo : Nat} (hlo : lo ≤ mid) (hmid : mid ≤ hi) :
    bits w hi lo = bits w hi (mid + 1) * 2 ^ (mid + 1 - lo) + bits w mid lo := by
  have hwidth : 2 ^ (hi + 1 - lo) = 2 ^ (mid + 1 - lo) * 2 ^ (hi + 1 - (mid + 1)) := by
    rw [← pow_add]; congr 1; omega
  have hstart : 2 ^ (mid + 1) = 2 ^ lo * 2 ^ (mid + 1 - lo) := by
    rw [← pow_add]; congr 1; omega
  rw [bits, bits, bits, hwidth, Nat.mod_mul, hstart, ← Nat.div_div_eq_div_mul]
  ring

/-- A word is its opcode byte and bits 23:0 (30_encoding.md R70). -/
theorem toNat_eq_opcode_add (w : Word) : w.toNat = bits w 31 24 * 16777216 + bits w 23 0 := by
  have hw : bits w 31 0 = w.toNat := by simp [bits, Nat.mod_eq_of_lt w.isLt]
  rw [← hw]
  exact bits_split w (by decide) (by decide)

theorem bits_eq_iff {v : BitVec (hi + 1 - lo)} :
    bits w hi lo = v.toNat ↔ ∀ j < hi + 1 - lo, w.getLsbD (lo + j) = v.getLsbD j := by
  rw [bits_eq_extractLsb', BitVec.toNat_inj, BitVec.eq_of_getLsbD_eq_iff]
  exact forall₂_congr fun j hj => by simp [hj]

theorem bits_eq_zero_iff : bits w hi lo = 0 ↔ ∀ k, lo ≤ k → k ≤ hi → w.getLsbD k = false := by
  have h : bits w hi lo = 0 ↔ _ := bits_eq_iff (v := 0)
  simp only [h, BitVec.ofNat_eq_ofNat, BitVec.getLsbD_zero]
  constructor
  · intro h k hlo hhi
    simpa only [Nat.add_sub_of_le hlo] using h (k - lo) (by omega)
  · intro h j hj
    exact h _ (by omega) (by omega)

end BitFields

section RoundTrips
variable {w : Word} {i : Instr}

/-! ## The decoder reads a command word back -/

/-- The top byte of a command word is its opcode (30_encoding.md R70). -/
theorem bits_encode_opcode (i : Instr) : bits (encode i) 31 24 = opcodeOf i := by
  have := operandBits_lt i
  have := opcodeOf_lt i
  rw [bits_encode]
  omega

/-- The opcode does not reach into a bit field of bits 23:0. -/
theorem bits_encode_operand (i : Instr) {hi lo : Nat} (hhi : hi < 24) (hlo : lo ≤ hi) :
    bits (encode i) hi lo = operandBits i / 2 ^ lo % 2 ^ (hi + 1 - lo) := by
  have hpow : 2 ^ lo * 2 ^ (hi + 1 - lo) = 2 ^ (hi + 1) := by
    rw [← pow_add]; congr 1; omega
  have hdvd : 2 ^ (hi + 1) ∣ opcodeOf i * 16777216 := Dvd.dvd.mul_left (pow_dvd_pow 2 (n := 24) hhi) _
  rw [bits_encode, ← Nat.mod_mul_right_div_self, ← Nat.mod_mul_right_div_self, hpow, Nat.add_mod,
    Nat.mod_eq_zero_of_dvd hdvd, Nat.zero_add, Nat.mod_mod]

/-- Settles O1: the opcode selects the operation's own row, where each field is a part of the operand bits; what is left
per format is that these parts are the operands, and the must-be-zero bits 0. -/
theorem decodeEncodeRoundTrip : Obligations.DecodeEncodeRoundTrip := by
  intro i
  cases i <;>
    simp [decode, bits_encode_opcode, opcodeOf, bits_encode_operand, operandBits, ← BitVec.toNat_inj]
  case cfgWr reg | cfgRd reg => omega
  case csPutb v | csPuth v => omega
  case csBuf buf | frDec buf => omega
  case bufWrb buf addr imm8 => omega
  case bufRdb buf addr => omega

/-- Settles O4: each word is the command word of its operation. -/
theorem decodeReadsTheSpecsWords : Obligations.DecodeReadsTheSpecsWords :=
  ⟨decodeEncodeRoundTrip .sndStep, decodeEncodeRoundTrip (.cfgWr 0x05), decodeEncodeRoundTrip (.cfgRd 0x1C),
    decodeEncodeRoundTrip (.bufWrb 1 5 0xFF), decodeEncodeRoundTrip (.bufRdb 1 9), decodeEncodeRoundTrip (.csPutb 0x48),
    decodeEncodeRoundTrip (.csPuth 0x4B2E), decodeEncodeRoundTrip (.csBuf 2), decodeEncodeRoundTrip (.frDec 1)⟩

/-! ## An accepted word is a command word -/

/-- The row was selected by the word's top byte. -/
theorem opcodeOf_of_decode (h : decode w = .instr i) : opcodeOf i = bits w 31 24 := by
  unfold decode at h
  split at h
  case h_5 hop => cases h; exact hop.symm
  case h_21 => cases h
  all_goals
    rename_i hop
    obtain ⟨-, rfl⟩ := mustBeZero_eq_instr.mp h
    exact hop.symm

/-- The fields a row reads and its must-be-zero bits make up bits 23:0. -/
theorem operandBits_of_decode (h : decode w = .instr i) : operandBits i = bits w 23 0 := by
  have hbuf : bits w 23 20 < 16 := bits_lt w 23 20
  have haddr : bits w 19 8 < 4096 := bits_lt w 19 8
  have hbyte : bits w 7 0 < 256 := bits_lt w 7 0
  have hhalf : bits w 15 0 < 65536 := bits_lt w 15 0
  have hsplitByte : bits w 23 0 = bits w 23 8 * 256 + bits w 7 0 := bits_split w (by decide) (by decide)
  have hsplitHalf : bits w 23 0 = bits w 23 16 * 65536 + bits w 15 0 := bits_split w (by decide) (by decide)
  have hsplitBuf : bits w 23 0 = bits w 23 20 * 1048576 + bits w 19 0 := bits_split w (by decide) (by decide)
  have hsplitAddr : bits w 19 0 = bits w 19 8 * 256 + bits w 7 0 := bits_split w (by decide) (by decide)
  unfold decode at h
  split at h
  case h_5 =>
    cases h
    simp only [operandBits, BitVec.toNat_ofNat]
    omega
  case h_3 | h_4 | h_6 | h_8 | h_9 | h_10 | h_14 =>
    obtain ⟨hzero, rfl⟩ := mustBeZero_eq_instr.mp h
    simp only [operandBits, BitVec.toNat_ofNat]
    omega
  case h_21 => cases h
  all_goals
    obtain ⟨hzero, rfl⟩ := mustBeZero_eq_instr.mp h
    exact hzero.symm

/-- Settles O2: opcode and operand bits of the operation are those of the word. -/
theorem encodeDecodeRoundTrip : Obligations.EncodeDecodeRoundTrip := by
  intro w i h
  apply BitVec.eq_of_toNat_eq
  rw [encode_toNat, toNat_eq_opcode_add, opcodeOf_of_decode h, operandBits_of_decode h]

end RoundTrips

section Rows
variable {w : Word} {op : Byte} {hi lo : Nat}

/-! ## The rows by mask and match -/

/-- The mask of a row whose must-be-zero field is `hi:lo`: the bits of the opcode and of that field (30_encoding.md
R79). -/
def rowMask (hi lo : Nat) : Word :=
  BitVec.allOnes 8 ++ (BitVec.allOnes (hi + 1 - lo)).setWidth 24 <<< lo

theorem getLsbD_rowMask (hi lo k : Nat) :
    (rowMask hi lo).getLsbD k = if k < 24 then decide (lo ≤ k ∧ k ≤ hi) else decide (k < 32) := by
  simp only [rowMask, BitVec.getLsbD_append, BitVec.getLsbD_shiftLeft, BitVec.getLsbD_setWidth, BitVec.getLsbD_allOnes]
  split
  · rw [Bool.eq_iff_iff]; simp; omega
  · simp; omega

/-- `c AND mask = match` says that the top byte is the opcode and the must-be-zero bits are 0. -/
theorem and_rowMask_eq_iff (h : hi < 24) :
    w &&& rowMask hi lo = op ++ (0 : BitVec 24) ↔ bits w 31 24 = op.toNat ∧ bits w hi lo = 0 := by
  rw [bits_eq_zero_iff, bits_eq_iff (hi := 31) (lo := 24) (v := op), BitVec.eq_of_getLsbD_eq_iff]
  simp only [BitVec.getLsbD_and, BitVec.getLsbD_append, getLsbD_rowMask, BitVec.ofNat_eq_ofNat, BitVec.getLsbD_zero]
  constructor
  · intro heq
    refine ⟨fun j hj => ?_, fun k hlo hhi => ?_⟩
    · have hk : 24 + j < 32 := by omega
      simpa [hk, -BitVec.getLsbD_eq_getElem] using heq (24 + j) hk
    · have hk : k < 24 := by omega
      simpa [hk, hlo, hhi] using heq k (by omega)
  · rintro ⟨hop, hzero⟩ k hk
    split
    · by_cases hfield : lo ≤ k ∧ k ≤ hi
      · simp [hzero k hfield.1 hfield.2]
      · simp [hfield]
    · have hbit := hop (k - 24) (by omega)
      rw [Nat.add_sub_of_le (by omega)] at hbit
      simp only [hbit, hk, decide_true, Bool.and_true]

/-- The opcode map's row of `op` with the must-be-zero field `hi:lo`, if the decoder has that row. -/
theorem and_rowMask_eq_iff_decode (op : Byte) (hi lo : Nat) (h : hi < 24)
    (hrow : bits w 31 24 = op.toNat → ∃ i, decode w = mustBeZero (bits w hi lo) i) :
    w &&& rowMask hi lo = op ++ (0 : BitVec 24) ↔
      ∃ i, decode w = .instr i ∧ opcodeOf i * 16777216 = (op ++ (0 : BitVec 24)).toNat := by
  have hmatch : (op ++ (0 : BitVec 24)).toNat = op.toNat * 16777216 := by
    rw [BitVec.toNat_append, Nat.shiftLeft_eq]
    exact Nat.or_zero _
  simp only [and_rowMask_eq_iff h, hmatch, Nat.mul_left_inj (show (16777216 : Nat) ≠ 0 by decide)]
  constructor
  · rintro ⟨hop, hzero⟩
    obtain ⟨i, hdecode⟩ := hrow hop
    rw [mustBeZero, if_pos hzero] at hdecode
    exact ⟨i, hdecode, (opcodeOf_of_decode hdecode).trans hop⟩
  · rintro ⟨i, hdecode, hopcode⟩
    have hop : bits w 31 24 = op.toNat := (opcodeOf_of_decode hdecode).symm.trans hopcode
    obtain ⟨j, hj⟩ := hrow hop
    exact ⟨hop, (mustBeZero_eq_instr.mp (hj.symm.trans hdecode)).1⟩

/-- Settles O3: the opcode map by opcode and must-be-zero field, which `BUF.WRB` has none of, and the decoder's row of
each opcode. -/
theorem decodeSelectsTheMatchingRow : Obligations.DecodeSelectsTheMatchingRow := by
  unfold Obligations.DecodeSelectsTheMatchingRow
  simp only [List.forall_mem_cons]
  refine ⟨fun w => and_rowMask_eq_iff_decode 0x00 23 0 (by decide) ?_,
    fun w => and_rowMask_eq_iff_decode 0x01 23 0 (by decide) ?_,
    fun w => and_rowMask_eq_iff_decode 0x02 23 8 (by decide) ?_,
    fun w => and_rowMask_eq_iff_decode 0x03 23 8 (by decide) ?_,
    fun w => and_rowMask_eq_iff_decode 0x04 23 24 (by decide) ?bufWrb,
    fun w => and_rowMask_eq_iff_decode 0x05 7 0 (by decide) ?_,
    fun w => and_rowMask_eq_iff_decode 0x10 23 0 (by decide) ?_,
    fun w => and_rowMask_eq_iff_decode 0x11 23 8 (by decide) ?_,
    fun w => and_rowMask_eq_iff_decode 0x12 23 16 (by decide) ?_,
    fun w => and_rowMask_eq_iff_decode 0x13 19 0 (by decide) ?_,
    fun w => and_rowMask_eq_iff_decode 0x14 23 0 (by decide) ?_,
    fun w => and_rowMask_eq_iff_decode 0x15 23 0 (by decide) ?_,
    fun w => and_rowMask_eq_iff_decode 0x20 23 0 (by decide) ?_,
    fun w => and_rowMask_eq_iff_decode 0x21 19 0 (by decide) ?_,
    fun w => and_rowMask_eq_iff_decode 0x22 23 0 (by decide) ?_,
    fun w => and_rowMask_eq_iff_decode 0x23 23 0 (by decide) ?_,
    fun w => and_rowMask_eq_iff_decode 0x30 23 0 (by decide) ?_,
    fun w => and_rowMask_eq_iff_decode 0x31 23 0 (by decide) ?_,
    fun w => and_rowMask_eq_iff_decode 0x38 23 0 (by decide) ?_,
    fun w => and_rowMask_eq_iff_decode 0x39 23 0 (by decide) ?_, nofun⟩
  case bufWrb =>
    intro hop
    have hnone : bits w 23 24 = 0 := Nat.mod_one _
    exact ⟨_, by rw [decode, hop, hnone]; rfl⟩
  all_goals
    intro hop
    exact ⟨_, by rw [decode, hop]; rfl⟩

end Rows

end Sys2Proof

/-! # Commands on the port -/
namespace Sys2Proof.Machine

/-- A command the decoder rejects raises ILLEGAL_CMD (60_exceptions.md R172). -/
theorem hostOp_of_reject {s : State} {w : Word} {d : Dword} {r : Reject} (h : decode w = .reject r) :
    hostOp w d s = .next (({ s with port := { s.port with wdata := d } } : State).faulted 0x80 w) := by
  simp only [hostOp, h, State.raise_eq_faulted]
  rfl

/-- Settles O5: a word the decoder accepts is a command word, so this one it rejects. -/
theorem unmatchedCommandRaisesIllegalCmd : Obligations.UnmatchedCommandRaisesIllegalCmd := by
  intro s w d rest hsched hnone
  cases hdecode : decode w with
  | instr i => exact absurd (encodeDecodeRoundTrip w i hdecode) (hnone i)
  | reject r => exact (step_of_sched hsched).trans (hostOp_of_reject hdecode)

section HostRuns
variable {s t : State} {rest : List Event}

/-! ## Runs of operations the HOST issues -/

/-- An issued operation is carried out on the operand that comes with it (30_encoding.md R84). -/
theorem step_issue {i : Instr} {d : Dword} (h : s.sched = issue i d :: rest) :
    step s = exec i { s with sched := rest, port := { s.port with wdata := d } } :=
  stepRunsTheDecodedOperation s (encode i) d rest i h (decodeEncodeRoundTrip i)

/-- A run goes on from the state its first step leaves. -/
theorem core_run_succ (k : Nat) (h : step s = .next t) : core.run (k + 1) s = core.run k t := by
  have hstep : core.step s = .next t := h
  simp only [Host.Core.run, hstep]

/-- A run goes on from the state a first run leaves. -/
theorem core_run_add {j : Nat} (k : Nat) (h : core.run j s = .next t) : core.run (j + k) s = core.run k t := by
  induction j generalizing s with
  | zero => cases h; rw [Nat.zero_add]
  | succ j ih =>
    cases hstep : core.step s with
    | next u =>
      rw [core_run_succ j hstep] at h
      rw [Nat.add_right_comm, core_run_succ _ hstep]
      exact ih h
    | fault f => simp only [Host.Core.run, hstep, reduceCtorEq] at h
    | refused r => simp only [Host.Core.run, hstep, reduceCtorEq] at h

/-! ## `CS.CLR`, `CS.PUTS`, `CS.GET` -/

theorem step_csClr (h : s.sched = issue .csClr 0 :: rest) :
    ∃ p, step s = .next { s with csu := Csu.reset, port := p, sched := rest } :=
  ⟨_, step_issue h⟩

theorem step_csPutb {b : Byte} (h : s.sched = issue (.csPutb b) 0 :: rest) :
    ∃ p, step s = .next { s with csu := s.csu.put b, port := p, sched := rest } :=
  ⟨_, step_issue h⟩

theorem step_csGet (h : s.sched = issue .csGet 0 :: rest) :
    ∃ p, step s = .next { s with port := p, sched := rest } ∧ p.status = 0 ∧ p.rdata = s.csu.get.setWidth 64 :=
  ⟨_, step_issue h, rfl, rfl⟩

/-- `CS.PUTS` absorbs the bytes, and changes nothing else but the port (30_encoding.md R85). -/
theorem run_csPuts (bs : List Byte) (h : s.sched = csPuts bs ++ rest) :
    ∃ p, core.run bs.length s = .next { s with csu := s.csu.putAll bs, port := p, sched := rest } := by
  induction bs generalizing s with
  | nil =>
    obtain rfl : s.sched = rest := h
    exact ⟨s.port, rfl⟩
  | cons b bs ih =>
    obtain ⟨p, hstep⟩ := step_csPutb h
    rw [List.length_cons, core_run_succ _ hstep]
    exact ih rfl

/-- The streaming form sums the words of the bytes if no byte waits before them (40_checksum.md R96). -/
theorem Csu.sumNow_putAll (bs : List Byte) {c : Csu} (h : c.odd = false) :
    (c.putAll bs).sumNow = (wordsOf bs).foldl ocAdd c.acc := by
  induction bs using wordsOf.induct generalizing c with
  | case1 => simp [Csu.sumNow, h]
  | case2 hi => simp [Csu.sumNow, Csu.put_even h]
  | case3 hi lo bs ih =>
    rw [Csu.putAll_cons, Csu.putAll_cons, Csu.put_even h, Csu.put_odd rfl, ih rfl, wordsOf_cons_cons, List.foldl_cons]

theorem Csu.get_putAll_reset (bs : List Byte) : (Csu.reset.putAll bs).get = checksum bs := by
  rw [Csu.get, Csu.sumNow_putAll bs rfl]
  rfl

/-- Settles O34: one step, the run of the bytes, one step. -/
theorem clearPutsGetReturnsTheChecksum : Obligations.ClearPutsGetReturnsTheChecksum := by
  intro s bs rest h
  obtain ⟨p, hclr⟩ := step_csClr h
  obtain ⟨q, hputs⟩ := run_csPuts (s := { s with csu := Csu.reset, port := p, sched := _ }) bs rfl
  obtain ⟨r, hget, hstatus, hrdata⟩ := step_csGet
    (s := { s with csu := Csu.reset.putAll bs, port := q, sched := issue .csGet 0 :: rest }) rfl
  have hrun := calc core.run (bs.length + 2) s
    _ = core.run (bs.length + 1) _ := core_run_succ _ hclr
    _ = core.run 1 _ := core_run_add 1 hputs
    _ = .next _ := core_run_succ 0 hget
  exact ⟨_, hrun, hstatus, hrdata.trans (congrArg _ (Csu.get_putAll_reset bs)), rfl⟩

/-! ## `PLD.LOAD` -/

/-- `BUF.WRB` of a byte inside PLD (44_system.md R168). -/
theorem exec_bufWrb_pld {addr : BitVec 12} {b : Byte} (h : addr.toNat < s.params.rbufCap) :
    exec (.bufWrb 0 addr b) s = .next (({ s with pld := Mem.write s.pld addr.toNat b } : State).done 0) :=
  if_neg h.not_ge

/-- `CFG.WR` that passes its four checks writes the register (44_system.md R166). -/
theorem exec_cfgWr_ok {reg : BitVec 8} {r : Reg} (h : regOf reg = some r) (hro : accessOf r ≠ .ro)
    (hidle : (lockedReg r && s.sessionActive) = false) (hval : legalValue s.params r s.port.wdata = true) :
    exec (.cfgWr reg) s = .next ((writeReg s r s.port.wdata).done 0) := by
  change execCfgWr reg s = _
  simp only [execCfgWr, h, if_neg hro, hidle, hval]
  rfl

theorem step_bufWrb_pld {a : Nat} {b : Byte} (ha : a < s.params.rbufCap) (hcap : s.params.rbufCap ≤ 4096)
    (h : s.sched = issue (.bufWrb 0 (BitVec.ofNat 12 a) b) 0 :: rest) :
    ∃ p, step s = .next { s with pld := Mem.write s.pld a b, port := p, sched := rest } := by
  have haddr : (BitVec.ofNat 12 a).toNat = a := Nat.mod_eq_of_lt (by omega)
  have hstep := (step_issue h).trans (exec_bufWrb_pld (haddr.trans_lt ha))
  rw [haddr] at hstep
  exact ⟨_, hstep⟩

/-- Register 7 is PLEN, which no session locks (10_state.md R28). -/
theorem step_cfgWr_plen {n : Nat} (hn : n ≤ s.params.rbufCap) (hcap : s.params.rbufCap ≤ 4096)
    (h : s.sched = issue (.cfgWr 0x07) (BitVec.ofNat 64 n) :: rest) :
    ∃ p, step s = .next { s with fr := { s.fr with plen := n }, port := p, sched := rest } := by
  have hvalue : (BitVec.ofNat 64 n).toNat = n := Nat.mod_eq_of_lt (by omega)
  have hstep := step_issue h
  rw [exec_cfgWr_ok (r := .plen) rfl nofun rfl (decide_eq_true (hvalue.trans_le hn)), writeReg, hvalue] at hstep
  exact ⟨_, hstep⟩

/-- The stores of `PLD.LOAD` write the bytes to PLD, and change nothing else but the port (30_encoding.md R85). -/
theorem run_wrbFrom_pld (bs : List Byte) {a : Nat} (hfits : a + bs.length ≤ s.params.rbufCap)
    (hcap : s.params.rbufCap ≤ 4096) (h : s.sched = wrbFrom 0 a bs ++ rest) :
    ∃ p, core.run bs.length s = .next { s with pld := Mem.writeBytes s.pld a bs, port := p, sched := rest } := by
  induction bs generalizing s a with
  | nil =>
    obtain rfl : s.sched = rest := h
    exact ⟨s.port, rfl⟩
  | cons b bs ih =>
    rw [List.length_cons, ← Nat.add_assoc, Nat.add_right_comm] at hfits
    obtain ⟨p, hstep⟩ := step_bufWrb_pld (by omega) hcap h
    rw [List.length_cons, core_run_succ _ hstep]
    exact ih (s := { s with pld := Mem.write s.pld a b, port := p, sched := _ }) hfits hcap rfl

/-- Settles O35: the run of the stores, then PLEN; PLD reads as after a write of the byte sequence. -/
theorem pldLoadStagesThePayload : Obligations.PldLoadStagesThePayload := by
  intro s bs rest hlegal hfits h
  obtain ⟨-, hcap, -⟩ := hlegal
  rw [pldLoad, List.append_assoc] at h
  obtain ⟨p, hstores⟩ := run_wrbFrom_pld bs ((Nat.zero_add _).trans_le hfits) hcap h
  obtain ⟨q, hplen⟩ := step_cfgWr_plen (s := { s with pld := Mem.writeBytes s.pld 0 bs, port := p, sched := _ })
    hfits hcap rfl
  refine ⟨_, (core_run_add 1 hstores).trans (core_run_succ 0 hplen), State.memRead_eq fun a ha => ?_, rfl,
    fun a ha => ?_, rfl⟩
  · simp [State.byteAt_pld, Mem.read?_writeBytes, ha]
  · simp [State.byteAt_pld, Mem.read?_writeBytes, ha.not_gt]

end HostRuns

end Sys2Proof.Machine

/-! # The ones-complement sum as a plain sum

Every law of `ocAdd` and `ocSum` is a law of the addition of numbers, seen through `ocFold`, which folds the carries of
a plain sum (40_checksum.md R94): `ocAdd a b` is `ocFold (a + b)`, and `ocSum bs` is `ocFold (plainSum bs)`. -/
namespace Sys2Proof.Machine

/-! ## The plain sum -/

@[simp] theorem plainSum_nil : plainSum [] = 0 := rfl

@[simp] theorem plainSum_one (hi : Byte) : plainSum [hi] = hi.toNat * 256 := by simp [plainSum]

/-- The first word counts once; the bytes after it keep the parity of their offsets. -/
@[simp] theorem plainSum_cons_cons (hi lo : Byte) (bs : List Byte) :
    plainSum (hi :: lo :: bs) = hi.toNat * 256 + lo.toNat + plainSum bs := by
  have hshift : bs.zipIdx 2 = bs.zipIdx.map (Prod.map id (· + 2)) := (List.map_snd_add_zipIdx_eq_zipIdx (k := 0)).symm
  simp [plainSum, List.zipIdx_cons, hshift, Function.comp_def, Nat.add_assoc]

theorem plainSum_append {bs : List Byte} (cs : List Byte) (h : bs.length % 2 = 0) :
    plainSum (bs ++ cs) = plainSum bs + plainSum cs := by
  induction bs using wordsOf.induct with
  | case1 => simp
  | case2 hi => simp at h
  | case3 hi lo bs ih =>
    have hsplit := ih ((Nat.add_mod_right bs.length 2).symm.trans h)
    simp only [List.cons_append, plainSum_cons_cons]
    omega

theorem plainSum_eq_zero_iff (bs : List Byte) : plainSum bs = 0 ↔ ∀ b ∈ bs, b = 0 := by
  induction bs using wordsOf.induct with
  | case1 => simp
  | case2 hi => simp [BitVec.toNat_eq (y := 0#8)]
  | case3 hi lo bs ih => simp [ih, BitVec.toNat_eq (y := 0#8), and_assoc]

/-- What a byte counts in the plain sum, by its offset. -/
def byteWeight (j : Nat) : Nat := if j % 2 = 0 then 256 else 1

@[simp] theorem byteWeight_zero : byteWeight 0 = 256 := rfl

@[simp] theorem byteWeight_one : byteWeight 1 = 1 := rfl

@[simp] theorem byteWeight_add_two (j : Nat) : byteWeight (j + 2) = byteWeight j := by
  simp only [byteWeight, Nat.add_mod_right]

theorem byteWeight_cases (j : Nat) : byteWeight j = 256 ∨ byteWeight j = 1 := by
  unfold byteWeight
  split <;> simp

theorem plainSum_set {bs : List Byte} {j : Nat} (x : Byte) (h : j < bs.length) :
    plainSum (bs.set j x) + byteWeight j * (bs.getD j 0).toNat = plainSum bs + byteWeight j * x.toNat := by
  induction bs using wordsOf.induct generalizing j with
  | case1 => exact absurd h (Nat.not_lt_zero j)
  | case2 hi =>
    obtain rfl : j = 0 := by simpa using h
    simp only [List.set_cons_zero, plainSum_one, byteWeight_zero, List.getD_cons_zero]
    omega
  | case3 hi lo bs ih =>
    match j with
    | 0 =>
      simp only [List.set_cons_zero, plainSum_cons_cons, byteWeight_zero, List.getD_cons_zero]
      omega
    | 1 =>
      simp only [List.set_cons_succ, List.set_cons_zero, plainSum_cons_cons, byteWeight_one, List.getD_cons_succ,
        List.getD_cons_zero]
      omega
    | j + 2 =>
      have hrest := ih (j := j) (by simpa using h)
      simp only [List.set_cons_succ, plainSum_cons_cons, List.getD_cons_succ, byteWeight_add_two]
      omega

/-! ## Folding the carries -/

theorem half_zero_toNat : (0 : Half).toNat = 0 := rfl

theorem half_ffff_toNat : (0xFFFF : Half).toNat = 65535 := rfl

/-- The ones-complement value of a plain sum: 0 for 0, else its representative in `1 .. 0xFFFF` modulo 0xFFFF
(40_checksum.md R94). -/
def ocFold (n : Nat) : Half :=
  if n = 0 then 0 else BitVec.ofNat 16 ((n - 1) % 65535 + 1)

theorem ocFold_toNat (n : Nat) : (ocFold n).toNat = if n = 0 then 0 else (n - 1) % 65535 + 1 := by
  unfold ocFold
  split
  · rfl
  · simp only [BitVec.toNat_ofNat]
    omega

theorem ocFold_eq_iff {m n : Nat} : ocFold m = ocFold n ↔ (m = 0 ↔ n = 0) ∧ m % 65535 = n % 65535 := by
  rw [BitVec.toNat_eq, ocFold_toNat, ocFold_toNat]
  split <;> split <;> omega

theorem ocFold_eq_zero_iff {n : Nat} : ocFold n = 0 ↔ n = 0 := by
  rw [BitVec.toNat_eq, ocFold_toNat]
  split <;> simp [*]

theorem ocFold_toNat_self (a : Half) : ocFold a.toNat = a := by
  have := a.isLt
  rw [BitVec.toNat_eq, ocFold_toNat]
  split <;> omega

/-- A part of a plain sum can be folded first. -/
theorem ocFold_fold_add (m n : Nat) : ocFold ((ocFold m).toNat + n) = ocFold (m + n) := by
  rw [ocFold_eq_iff, ocFold_toNat]
  split <;> omega

theorem ocAdd_eq_ocFold (a b : Half) : ocAdd a b = ocFold (a.toNat + b.toNat) := by
  have := a.isLt
  have := b.isLt
  rw [BitVec.toNat_eq, ocAdd_toNat, ocFold_toNat]
  split <;> split <;> omega

theorem ocFold_add (m n : Nat) : ocFold (m + n) = ocAdd (ocFold m) (ocFold n) := by
  rw [ocAdd_eq_ocFold, ocFold_fold_add, Nat.add_comm, ← ocFold_fold_add, Nat.add_comm]

/-- Folding every carry at once gives what folding each as it comes gives (40_checksum.md R94). -/
theorem foldl_ocAdd_wordsOf (bs : List Byte) (acc : Half) :
    (wordsOf bs).foldl ocAdd acc = ocFold (acc.toNat + plainSum bs) := by
  induction bs using wordsOf.induct generalizing acc with
  | case1 => exact (ocFold_toNat_self acc).symm
  | case2 hi =>
    have : (BitVec.ofNat 16 (hi.toNat * 256)).toNat = hi.toNat * 256 := Nat.mod_eq_of_lt (by omega)
    simp [ocAdd_eq_ocFold, this]
  | case3 hi lo bs ih =>
    have hword : (BitVec.ofNat 16 (hi.toNat * 256 + lo.toNat)).toNat = hi.toNat * 256 + lo.toNat :=
      Nat.mod_eq_of_lt (by omega)
    rw [wordsOf_cons_cons, List.foldl_cons, ih, ocAdd_eq_ocFold, ocFold_fold_add, hword, Nat.add_assoc,
      plainSum_cons_cons]

theorem ocSum_eq_ocFold (bs : List Byte) : ocSum bs = ocFold (plainSum bs) := by
  rw [ocSum, foldl_ocAdd_wordsOf, half_zero_toNat, Nat.zero_add]

theorem ocSum_eq_zero_iff (bs : List Byte) : ocSum bs = 0 ↔ ∀ b ∈ bs, b = 0 := by
  rw [ocSum_eq_ocFold, ocFold_eq_zero_iff, plainSum_eq_zero_iff]

theorem ocSum_append {bs : List Byte} (cs : List Byte) (h : bs.length % 2 = 0) :
    ocSum (bs ++ cs) = ocAdd (ocSum bs) (ocSum cs) := by
  simp only [ocSum_eq_ocFold, plainSum_append cs h, ocFold_add]

/-- Settles O12. -/
theorem ocSumIsPlainSumModuloFfff : Obligations.OcSumIsPlainSumModuloFfff := by
  intro bs
  rw [ocSum_eq_ocFold, ocFold_toNat]
  refine ⟨ocFold_eq_zero_iff.mpr, fun hne => ?_⟩
  rw [if_neg hne]
  omega

/-! ## The laws of ones-complement addition -/

theorem ocAdd_comm (a b : Half) : ocAdd a b = ocAdd b a := by
  rw [ocAdd_eq_ocFold, ocAdd_eq_ocFold, Nat.add_comm]

theorem ocAdd_assoc (a b c : Half) : ocAdd (ocAdd a b) c = ocAdd a (ocAdd b c) := by
  rw [ocAdd_comm a]
  simp only [ocAdd_eq_ocFold, ocFold_fold_add]
  rw [Nat.add_comm a.toNat, ocFold_fold_add]
  congr 1
  omega

theorem ocAdd_zero (a : Half) : ocAdd a 0 = a := by
  rw [ocAdd_eq_ocFold, half_zero_toNat, Nat.add_zero, ocFold_toNat_self]

/-- 0xFFFF is a second zero beside 0 itself (40_checksum.md R97 (c)). -/
theorem ocAdd_ffff {a : Half} (h : a ≠ 0) : ocAdd a 0xFFFF = a := by
  have hne : a.toNat ≠ 0 := fun h0 => h (BitVec.eq_of_toNat_eq h0)
  calc ocAdd a 0xFFFF
    _ = ocFold (a.toNat + 65535) := by rw [ocAdd_eq_ocFold, half_ffff_toNat]
    _ = ocFold a.toNat := ocFold_eq_iff.mpr (by omega)
    _ = a := ocFold_toNat_self a

theorem ocAdd_complement (a : Half) : ocAdd a (0xFFFF - a) = 0xFFFF := by
  have := a.isLt
  have hsum : a.toNat + (65535 - a.toNat) = 65535 := by omega
  rw [ocAdd_eq_ocFold, ffff_sub_toNat, hsum]
  rfl

/-- Settles O14. -/
theorem ocAddLaws : Obligations.OcAddLaws :=
  ⟨ocAdd_comm, ocAdd_assoc, ocAdd_zero, fun _ => ocAdd_ffff, rfl, ocAdd_complement, fun _ cs => ocSum_append cs⟩

/-! ## The checksum -/

theorem checksum_toNat (bs : List Byte) : (checksum bs).toNat = 65535 - (ocSum bs).toNat :=
  ffff_sub_toNat (ocSum bs)

theorem checksum_eq_zero_iff (bs : List Byte) : checksum bs = 0 ↔ ocSum bs = 0xFFFF := by
  have := (ocSum bs).isLt
  rw [BitVec.toNat_eq, BitVec.toNat_eq, checksum_toNat, half_ffff_toNat, half_zero_toNat]
  omega

theorem checksum_eq_ffff_iff (bs : List Byte) : checksum bs = 0xFFFF ↔ ocSum bs = 0 := by
  have := (ocSum bs).isLt
  rw [BitVec.toNat_eq, BitVec.toNat_eq, checksum_toNat, half_ffff_toNat, half_zero_toNat]
  omega

theorem checksum_eq_not (bs : List Byte) : checksum bs = ~~~(ocSum bs) := by
  rw [BitVec.toNat_eq, checksum_toNat, BitVec.toNat_not]

/-- Settles O13. -/
theorem checksumIsComplementOfSum : Obligations.ChecksumIsComplementOfSum :=
  ⟨rfl, fun bs => ⟨checksum_toNat bs, checksum_eq_not bs,
    (checksum_eq_ffff_iff bs).trans (ocSum_eq_zero_iff bs), checksum_eq_zero_iff bs⟩⟩

end Sys2Proof.Machine

/-! # Packets that carry their checksum -/
namespace Sys2Proof.Machine

/-! ## The residue -/

theorem ocSum_be16 (v : Half) : ocSum (be16 v) = v := by
  have := v.isLt
  have hplain : plainSum (be16 v) = v.toNat := by
    simp only [be16, plainSum_cons_cons, plainSum_nil, BitVec.toNat_ofNat]
    omega
  rw [ocSum_eq_ocFold, hplain, ocFold_toNat_self]

/-- The field and the sum of the body are complements (40_checksum.md R98). -/
theorem ocSum_carried (body : List Byte) : ocSum (be16 (checksum body) ++ body) = 0xFFFF := by
  rw [ocSum_append body (by simp), ocSum_be16, ocAdd_comm, checksum, ocAdd_complement]

/-- Settles O15. -/
theorem carriedChecksumGivesZeroResidue : Obligations.CarriedChecksumGivesZeroResidue := fun body =>
  ⟨ocSum_carried body, (checksum_eq_zero_iff _).mpr (ocSum_carried body)⟩

/-! ## What the comparison of `decode` accepts -/

theorem be16_fromBe {field : List Byte} (h : field.length = 2) : be16 (BitVec.ofNat 16 (fromBe field)) = field := by
  match field, h with
  | [hi, lo], _ =>
    have := hi.isLt
    have := lo.isLt
    simp only [be16, fromBe, List.foldl_cons, List.foldl_nil, List.cons.injEq, and_true, BitVec.toNat_eq,
      BitVec.toNat_ofNat]
    omega

/-- The status of a checksummed packet is the outcome of the comparison (41_framer.md R114, R115). -/
theorem decodePkt_status {d : List Byte} (h : 6 ≤ d.length) :
    (decodePkt d true).status =
      if BitVec.ofNat 16 (fromBe (d.take 2)) = checksum (d.drop 2) then .ok else .badsum := by
  have hlong : ¬d.length < hdr true := h.not_gt
  simp [decodePkt, hlong]

/-- A checksummed packet the comparison accepts is its body behind the body's checksum. -/
theorem eq_carried_of_status_ok {d : List Byte} (h : 6 ≤ d.length) (hok : (decodePkt d true).status = .ok) :
    d = be16 (checksum (d.drop 2)) ++ d.drop 2 := by
  rw [decodePkt_status h] at hok
  have hfield : BitVec.ofNat 16 (fromBe (d.take 2)) = checksum (d.drop 2) := by
    by_contra hne
    simp [hne] at hok
  have hlength : (d.take 2).length = 2 := List.length_take_of_le (by omega)
  rw [← hfield, be16_fromBe hlength, List.take_append_drop]

/-- A checksummed packet whose residue is not 0 decodes to BADSUM. -/
theorem status_badsum_of_residue {d : List Byte} (h : 6 ≤ d.length) (hsum : ocSum d ≠ 0xFFFF) :
    (decodePkt d true).status = .badsum := by
  have hnot : (decodePkt d true).status ≠ .ok := fun hok =>
    hsum ((eq_carried_of_status_ok h hok).symm ▸ ocSum_carried (d.drop 2))
  rw [decodePkt_status h] at hnot ⊢
  exact if_neg fun hfield => hnot (if_pos hfield)

/-! ## Errors inside one byte -/

/-- Another byte in the place of one moves the plain sum by less than 0xFFFF, so it changes the sum. -/
theorem ocSum_set_ne {bs : List Byte} {j : Nat} {x : Byte} (h : j < bs.length) (hx : x ≠ bs.getD j 0) :
    ocSum (bs.set j x) ≠ ocSum bs := by
  have hplain := plainSum_set x h
  have hne : x.toNat ≠ (bs.getD j 0).toNat := fun heq => hx (BitVec.eq_of_toNat_eq heq)
  have := x.isLt
  have := (bs.getD j 0).isLt
  rw [ocSum_eq_ocFold, ocSum_eq_ocFold, Ne, ocFold_eq_iff]
  rcases byteWeight_cases j with hw | hw <;> rw [hw] at hplain <;> omega

theorem flipBit_byte_ne (x : Byte) {b : Nat} (h : b < 8) : x ^^^ BitVec.ofNat 8 (2 ^ b) ≠ x := by
  have hbit : BitVec.ofNat 8 (2 ^ b) ≠ 0 := by
    have hlt : 2 ^ b < 2 ^ 8 := Nat.pow_lt_pow_right (by omega) h
    rw [Ne, BitVec.toNat_eq, BitVec.toNat_ofNat, Nat.mod_eq_of_lt hlt]
    exact (Nat.two_pow_pos b).ne'
  intro heq
  exact hbit ((BitVec.xor_right_inj x).mp (heq.trans (BitVec.xor_zero).symm))

/-- Settles O16: the intact packet has residue 0, so the damaged one has not. -/
theorem singleBitErrorIsDetected : Obligations.SingleBitErrorIsDetected := by
  intro seq payload j b hj hb
  have hlength : (encodePkt seq payload true).length = payload.length + 6 := encodePkt_length seq payload true
  have hintact : ocSum (encodePkt seq payload true) = 0xFFFF := ocSum_carried (be32 seq ++ payload)
  refine status_badsum_of_residue (by simp only [flipBit, List.length_set, hlength]; omega) ?_
  rw [← hintact]
  exact ocSum_set_ne (hlength ▸ hj) (flipBit_byte_ne _ hb)

end Sys2Proof.Machine

/-! # The checksum unit's operations -/
namespace Sys2Proof.Machine

/-! ## The CSU registers and the bytes they have absorbed -/

/-- The registers after the bytes `bs`, put in while no byte waits (40_checksum.md R96). -/
theorem Csu.putAll_even (bs : List Byte) (a : Half) :
    ({ acc := a, odd := false, hold := 0 } : Csu).putAll bs =
      { acc := (wordsOf (bs.take (2 * (bs.length / 2)))).foldl ocAdd a
        odd := decide (bs.length % 2 = 1)
        hold := if bs.length % 2 = 1 then bs.getLastD 0 else 0 } := by
  induction bs using wordsOf.induct generalizing a with
  | case1 => rfl
  | case2 hi => simp [Csu.put_even]
  | case3 hi lo bs ih =>
    have heven : ({ acc := a, odd := false, hold := 0 } : Csu).odd = false := rfl
    have hcount : 2 * ((hi :: lo :: bs).length / 2) = 2 * (bs.length / 2) + 2 := by
      simp only [List.length_cons]
      omega
    have hparity : (hi :: lo :: bs).length % 2 = bs.length % 2 := Nat.add_mod_right bs.length 2
    rw [Csu.putAll_cons, Csu.putAll_cons, Csu.put_even heven, Csu.put_odd rfl, ih, hcount, hparity]
    cases bs <;> rfl

/-- `Absorbed` names one state of the registers: what `put` leaves of a new sum. -/
theorem Csu.absorbed_iff {c : Csu} {bs : List Byte} : c.Absorbed bs ↔ c = Csu.reset.putAll bs := by
  rw [Csu.reset, Csu.putAll_even, Csu.Absorbed]
  cases c
  simp [ocSum]

theorem Csu.Absorbed.putAll {c : Csu} {bs : List Byte} (h : c.Absorbed bs) (xs : List Byte) :
    (c.putAll xs).Absorbed (bs ++ xs) := by
  rw [Csu.absorbed_iff] at h ⊢
  rw [h, Csu.putAll_append]

theorem Csu.Absorbed.get {c : Csu} {bs : List Byte} (h : c.Absorbed bs) : c.get = checksum bs := by
  rw [Csu.absorbed_iff.mp h, Csu.get_putAll_reset]

section Operations
variable {s : State}

/-! ## The operations that absorb -/

/-- An operation that puts `xs` into the CSU continues whatever sum stands there, and changes nothing else. -/
theorem absorbs_of_exec {i : Instr} {xs : List Byte}
    (h : exec i s = .next (({ s with csu := s.csu.putAll xs } : State).done 0)) :
    ∃ t, exec i s = .next t ∧ t = ({ s with csu := t.csu } : State).done 0 ∧
      ∀ bs, s.csu.Absorbed bs → t.csu.Absorbed (bs ++ xs) :=
  ⟨_, h, rfl, fun _ habs => habs.putAll xs⟩

theorem exec_csPutb (b : Byte) :
    exec (.csPutb b) s = .next (({ s with csu := s.csu.putAll [b] } : State).done 0) := rfl

theorem be16_append (hi lo : Byte) : be16 (hi ++ lo) = [hi, lo] := by
  have := hi.isLt
  have := lo.isLt
  have hnum : (hi ++ lo : Half).toNat = hi.toNat * 256 + lo.toNat := by
    rw [BitVec.toNat_append, ← Nat.shiftLeft_add_eq_or_of_lt lo.isLt, Nat.shiftLeft_eq]
  simp only [be16, hnum, List.cons.injEq, and_true, BitVec.toNat_eq, BitVec.toNat_ofNat]
  omega

theorem exec_csPuth (hi lo : Byte) :
    exec (.csPuth (hi ++ lo)) s = .next (({ s with csu := s.csu.putAll [hi, lo] } : State).done 0) := by
  rw [← be16_append]
  rfl

theorem exec_csBuf {buf : BitVec 4} {sp : Space} {xs : List Byte} (hsp : bufOf buf = some sp)
    (hxs : s.bufBytes sp = .ok xs) :
    exec (.csBuf buf) s = .next (({ s with csu := s.csu.putAll xs } : State).done 0) := by
  change execCsBuf buf s = _
  simp only [execCsBuf, hsp, hxs, withMem_ok, State.complete_ok]

theorem State.rxpBytes_eq_head (s : State) : s.rxpBytes = (s.rxq.head?.map (·.bytes)).getD [] := by
  unfold State.rxpBytes
  cases s.rxq <;> rfl

/-- Settles O31. -/
theorem csPutAbsorbsBytes : Obligations.CsPutAbsorbsBytes := fun _ =>
  ⟨⟨_, rfl, Csu.absorbed_iff.mpr rfl, rfl⟩, fun b => absorbs_of_exec (exec_csPutb b),
    fun hi lo => absorbs_of_exec (exec_csPuth hi lo)⟩

/-- Settles O32. -/
theorem csBufAbsorbsTheBuffer : Obligations.CsBufAbsorbsTheBuffer := by
  rintro s buf xs (⟨rfl, hfits, rfl⟩ | ⟨rfl, hfits, rfl⟩ | ⟨rfl, rfl⟩)
  · exact absorbs_of_exec (exec_csBuf rfl (State.bufBytes_pld hfits))
  · exact absorbs_of_exec (exec_csBuf rfl (State.bufBytes_txp hfits))
  · exact absorbs_of_exec (exec_csBuf rfl (congrArg Except.ok s.rxpBytes_eq_head))

/-! ## The operations that read the sum -/

theorem exec_csGet : exec .csGet s = .next (s.done (s.csu.get.setWidth 64)) := rfl

theorem exec_csVfy : exec .csVfy s = .next (s.done (if s.csu.get = 0 then 1 else 0)) := rfl

/-- Settles O33. -/
theorem csGetAndVfyReadTheSum : Obligations.CsGetAndVfyReadTheSum := by
  intro s bs habs
  rw [exec_csGet, exec_csVfy, habs.get]
  simp only [checksum_eq_zero_iff, and_self]

end Operations

end Sys2Proof.Machine

/-! # The packet codec

`decode` by the length of the datagram and the variant (41_framer.md R114): three equations, from which every statement
about a datagram follows. -/
namespace Sys2Proof.Machine

/-! ## Big-endian fields -/

theorem fromBe_concat (bs : List Byte) (b : Byte) : fromBe (bs ++ [b]) = fromBe bs * 256 + b.toNat := by
  simp [fromBe]

theorem fromBe_lt (bs : List Byte) : fromBe bs < 2 ^ (8 * bs.length) := by
  induction bs using List.reverseRecOn with
  | nil => decide
  | append_singleton bs b ih =>
    have hpow : 2 ^ (8 * (bs.length + 1)) = 2 ^ (8 * bs.length) * 256 := Nat.pow_add 2 (8 * bs.length) 8
    rw [fromBe_concat, List.length_append, List.length_singleton, hpow]
    omega

/-- A word of as many bits as the field has holds its number. -/
theorem toNat_ofNat_fromBe {w : Nat} {field : List Byte} (h : 8 * field.length = w) :
    (BitVec.ofNat w (fromBe field)).toNat = fromBe field :=
  Nat.mod_eq_of_lt (h ▸ fromBe_lt field)

@[simp] theorem fromBe_be16 (v : Half) : fromBe (be16 v) = v.toNat := by
  have := v.isLt
  simp only [fromBe, be16, List.foldl_cons, List.foldl_nil, BitVec.toNat_ofNat]
  omega

@[simp] theorem fromBe_be32 (v : Word) : fromBe (be32 v) = v.toNat := by
  have := v.isLt
  simp only [fromBe, be32, List.foldl_cons, List.foldl_nil, BitVec.toNat_ofNat]
  omega

theorem be32_fromBe {field : List Byte} (h : field.length = 4) : be32 (BitVec.ofNat 32 (fromBe field)) = field := by
  match field, h with
  | [b3, b2, b1, b0], _ =>
    have := b3.isLt
    have := b2.isLt
    have := b1.isLt
    have := b0.isLt
    simp only [be32, fromBe, List.foldl_cons, List.foldl_nil, List.cons.injEq, and_true, BitVec.toNat_eq,
      BitVec.toNat_ofNat]
    omega

/-! ## `decode`, by length and variant -/

section Decoding
variable {d : List Byte} {cs : Bool}

/-- The sequence-number field of a checksummed datagram is complete. -/
theorem seq_field_length (h : 6 ≤ d.length) : ((d.drop 2).take 4).length = 4 :=
  List.length_take_of_le (by rw [List.length_drop]; omega)

theorem decodePkt_of_short (h : d.length < hdr cs) :
    decodePkt d cs = { status := .runt, seq := 0, payload := [], carried := 0 } :=
  if_pos h

theorem decodePkt_checked (h : 6 ≤ d.length) :
    decodePkt d true =
      { status := if BitVec.ofNat 16 (fromBe (d.take 2)) = checksum (d.drop 2) then .ok else .badsum
        seq := BitVec.ofNat 32 (fromBe ((d.drop 2).take 4))
        payload := d.drop 6
        carried := BitVec.ofNat 16 (fromBe (d.take 2)) } :=
  if_neg h.not_gt

theorem decodePkt_legacy (h : 4 ≤ d.length) :
    decodePkt d false =
      { status := .ok, seq := BitVec.ofNat 32 (fromBe (d.take 4)), payload := d.drop 4, carried := 0 } :=
  if_neg h.not_gt

/-- Only a datagram shorter than its header is a runt (41_framer.md R116). -/
theorem decodePkt_status_eq_runt_iff : (decodePkt d cs).status = .runt ↔ d.length < hdr cs := by
  refine ⟨fun hrunt => ?_, fun h => by rw [decodePkt_of_short h]⟩
  by_contra hlong
  cases cs with
  | true =>
    rw [decodePkt_checked (not_lt.mp hlong)] at hrunt
    dsimp only at hrunt
    split at hrunt <;> cases hrunt
  | false =>
    rw [decodePkt_legacy (not_lt.mp hlong)] at hrunt
    cases hrunt

theorem decodePkt_status_ok_iff (h : 6 ≤ d.length) :
    (decodePkt d true).status = .ok ↔ BitVec.ofNat 16 (fromBe (d.take 2)) = checksum (d.drop 2) := by
  rw [decodePkt_status h]
  split <;> simp [*]

/-! ## `encode` and `decode` -/

/-- The payload of a packet stands behind its header (41_framer.md R112). -/
theorem encodePkt_drop_hdr (seq : Word) (payload : List Byte) (cs : Bool) :
    (encodePkt seq payload cs).drop (hdr cs) = payload := by
  cases cs <;> rfl

theorem decodePkt_encodePkt (seq : Word) (payload : List Byte) (cs : Bool) :
    decodePkt (encodePkt seq payload cs) cs =
      { status := .ok, seq := seq, payload := payload
        carried := if cs then checksum (be32 seq ++ payload) else 0 } := by
  cases cs with
  | true =>
    have hlong : 6 ≤ (encodePkt seq payload true).length :=
      (Nat.le_add_left 6 _).trans_eq (encodePkt_length seq payload true).symm
    have hfield : (encodePkt seq payload true).take 2 = be16 (checksum (be32 seq ++ payload)) := rfl
    have hbody : (encodePkt seq payload true).drop 2 = be32 seq ++ payload := rfl
    have hseq : (be32 seq ++ payload).take 4 = be32 seq := rfl
    have hpayload : (encodePkt seq payload true).drop 6 = payload := rfl
    simp [decodePkt_checked hlong, hfield, hbody, hseq, hpayload]
  | false =>
    have hlong : 4 ≤ (encodePkt seq payload false).length :=
      (Nat.le_add_left 4 _).trans_eq (encodePkt_length seq payload false).symm
    have hseq : (encodePkt seq payload false).take 4 = be32 seq := rfl
    have hpayload : (encodePkt seq payload false).drop 4 = payload := rfl
    simp [decodePkt_legacy hlong, hseq, hpayload]

theorem encodePkt_decodePkt (hok : (decodePkt d cs).status = .ok) :
    encodePkt (decodePkt d cs).seq (decodePkt d cs).payload cs = d := by
  have hlong : hdr cs ≤ d.length := by
    by_contra hshort
    simp [decodePkt_of_short (not_le.mp hshort)] at hok
  cases cs with
  | true =>
    have hlen : 6 ≤ d.length := hlong
    have hbody : be32 (BitVec.ofNat 32 (fromBe ((d.drop 2).take 4))) ++ d.drop 6 = d.drop 2 := by
      have hsplit := List.take_append_drop 4 (d.drop 2)
      rw [List.drop_drop] at hsplit
      rw [be32_fromBe (seq_field_length hlen), hsplit]
    simpa [decodePkt_checked hlen, encodePkt, hbody] using (eq_carried_of_status_ok hlen hok).symm
  | false =>
    have hlen : 4 ≤ d.length := hlong
    simp [decodePkt_legacy hlen, encodePkt, be32_fromBe (List.length_take_of_le hlen)]

/-- Settles O17. -/
theorem packetCodecRoundTrip : Obligations.PacketCodecRoundTrip :=
  ⟨decodePkt_encodePkt, fun _ _ => encodePkt_decodePkt⟩

/-! ## Comparison and residue -/

/-- A sum is 0xFFFF where its parts are complements, and where both are 0xFFFF, the second zero (40_checksum.md R97). -/
theorem ocAdd_eq_ffff_iff (a b : Half) : ocAdd a b = 0xFFFF ↔ a = 0xFFFF - b ∨ a = 0xFFFF ∧ b = 0xFFFF := by
  have := a.isLt
  have := b.isLt
  simp only [BitVec.toNat_eq, ocAdd_toNat, ffff_sub_toNat, half_ffff_toNat]
  split <;> omega

/-- A datagram as its checksum field and its body. -/
theorem be16_field_append_drop (h : 2 ≤ d.length) : be16 (BitVec.ofNat 16 (fromBe (d.take 2))) ++ d.drop 2 = d := by
  rw [be16_fromBe (List.length_take_of_le h), List.take_append_drop]

/-- The residue test on the carried field and the body's sum (41_framer.md R115). -/
theorem checksum_eq_zero_iff_field (h : 2 ≤ d.length) :
    checksum d = 0 ↔
      BitVec.ofNat 16 (fromBe (d.take 2)) = checksum (d.drop 2) ∨
        BitVec.ofNat 16 (fromBe (d.take 2)) = (0xFFFF : Half) ∧ ocSum (d.drop 2) = 0xFFFF := by
  have hsum : ocSum d = ocAdd (BitVec.ofNat 16 (fromBe (d.take 2))) (ocSum (d.drop 2)) := by
    conv_lhs => rw [← be16_field_append_drop h, ocSum_append _ (by simp), ocSum_be16]
  rw [checksum_eq_zero_iff, hsum, ocAdd_eq_ffff_iff, checksum]

/-- Settles O18: where the comparison fails, the residue is 0 by the second zero alone. -/
theorem residueAcceptsOneFamilyMore : Obligations.ResidueAcceptsOneFamilyMore := by
  intro d h
  have hlength : (d.take 2).length = 2 := List.length_take_of_le (by omega)
  have hfield : fromBe (d.take 2) = 65535 ↔ BitVec.ofNat 16 (fromBe (d.take 2)) = (0xFFFF : Half) := by
    rw [BitVec.toNat_eq, toNat_ofNat_fromBe (by rw [hlength]), half_ffff_toNat]
  have hresidue := checksum_eq_zero_iff_field (d := d) (by omega)
  rw [hfield, ne_eq, decodePkt_status_ok_iff h, hresidue]
  refine ⟨.inl, fun ⟨hzero, hrefused⟩ => hzero.resolve_left hrefused,
    fun hffff => ⟨.inr hffff, fun heq => ?_⟩⟩
  obtain ⟨hones, hsum⟩ := hffff
  have hbody : checksum (d.drop 2) = 0 := (checksum_eq_zero_iff _).mpr hsum
  exact absurd (hones.symm.trans (heq.trans hbody)) (by decide)

/-! ## The decode registers -/

/-- The decode registers of a datagram with a header (41_framer.md R122). -/
theorem decRegsOf_of_long (h : hdr cs ≤ d.length) :
    decRegsOf d cs =
      { stat := (decodePkt d cs).status, seq := (decodePkt d cs).seq, plen := (decodePkt d cs).payload.length
        poff := hdr cs, csum := (decodePkt d cs).carried } :=
  if_neg fun hrunt => h.not_gt (decodePkt_status_eq_runt_iff.mp hrunt)

theorem decRegsOf_of_short (h : d.length < hdr cs) :
    decRegsOf d cs = { stat := .runt, seq := 0, plen := 0, poff := 0, csum := 0 } :=
  if_pos (decodePkt_status_eq_runt_iff.mpr h)

/-- The model's decode registers are those the statement spells out by offsets (41_framer.md R114, R122). -/
theorem decRegsOf_show (d : List Byte) (cs : Bool) : (decRegsOf d cs).Show d cs := by
  refine ⟨decRegsOf_of_short, ?_, ?_⟩
  · rintro h rfl
    have hlen : 6 ≤ d.length := h
    have hfield : (d.take 2).length = 2 := List.length_take_of_le (by omega)
    rw [decRegsOf_of_long h, decodePkt_checked h]
    exact ⟨toNat_ofNat_fromBe (by rw [seq_field_length hlen]), toNat_ofNat_fromBe (by rw [hfield]),
      List.length_drop, rfl, rfl⟩
  · rintro h rfl
    have hseq : (d.take 4).length = 4 := List.length_take_of_le h
    rw [decRegsOf_of_long h, decodePkt_legacy h]
    exact ⟨toNat_ofNat_fromBe (by rw [hseq]), rfl, List.length_drop, rfl, rfl⟩

theorem decRegsOf_encodePkt (seq : Word) (payload : List Byte) (cs : Bool) :
    decRegsOf (encodePkt seq payload cs) cs =
      { stat := .ok, seq := seq, plen := payload.length, poff := hdr cs
        csum := if cs then checksum (be32 seq ++ payload) else 0 } := by
  have hlong : hdr cs ≤ (encodePkt seq payload cs).length := by simp
  rw [decRegsOf_of_long hlong, decodePkt_encodePkt]

end Decoding

end Sys2Proof.Machine

/-! # The cut of the transfer buffer -/
namespace Sys2Proof.Machine

section Cut
variable (s : State)

/-! ## Reads of a byte sequence -/

theorem State.memRead_append (sp : Space) (a m n : Nat) :
    s.memRead sp a m ++ s.memRead sp (a + m) n = s.memRead sp a (m + n) := by
  simp [State.memRead, List.range_add, Nat.add_assoc, Function.comp_def]

theorem State.memRead_getD {sp : Space} {a n i : Nat} (b : Byte) (h : i < n) :
    (s.memRead sp a n).getD i b = s.byteAt sp (a + i) := by
  simp [State.memRead, h]

/-! ## The payloads in order -/

/-- The first `j` payloads are the first `j * PSIZE` bytes of the buffer, or all of it (41_framer.md R126). -/
theorem flatMap_dataPayload (j : Nat) :
    (List.range j).flatMap (dataPayload s) = s.memRead .tbuf 0 (min (j * s.cfg.psize) s.snd.len.toNat) := by
  induction j with
  | zero => simp [State.memRead]
  | succ j ih =>
    rw [List.range_succ, List.flatMap_append, ih, List.flatMap_singleton, dataPayload, sliceLen_eq, Nat.succ_mul]
    rcases le_total (j * s.cfg.psize) s.snd.len.toNat with hin | hout
    · have hlen : j * s.cfg.psize + min s.cfg.psize (s.snd.len.toNat - j * s.cfg.psize) =
          min (j * s.cfg.psize + s.cfg.psize) s.snd.len.toNat := by omega
      have happend := s.memRead_append .tbuf 0 (j * s.cfg.psize) (min s.cfg.psize (s.snd.len.toNat - j * s.cfg.psize))
      rw [Nat.zero_add, hlen] at happend
      rw [min_eq_left hin, happend]
    · have hnone : s.memRead .tbuf (j * s.cfg.psize) 0 = [] := rfl
      rw [min_eq_right hout, min_eq_right (hout.trans (Nat.le_add_right _ _)), Nat.sub_eq_zero_of_le hout,
        Nat.min_zero, hnone, List.append_nil]

end Cut

/-- Settles O19. -/
theorem dataPacketsCutTheTransferBuffer : Obligations.DataPacketsCutTheTransferBuffer := by
  intro s hp
  refine ⟨?_, fun k hk => (dataPayload_full_iff hp).mpr hk, ?_⟩
  · have hcover : s.snd.len.toNat ≤ (s.snd.len.toNat / s.cfg.psize + 1) * s.cfg.psize := by
      rw [Nat.succ_mul]
      exact (Nat.lt_div_mul_add hp).le
    rw [flatMap_dataPayload, min_eq_right hcover]
  · have hrest : s.snd.len.toNat - s.snd.len.toNat / s.cfg.psize * s.cfg.psize = s.snd.len.toNat % s.cfg.psize := by
      rw [Nat.mod_eq_sub_div_mul]
    rw [dataPayload_length, hrest, min_eq_right (Nat.mod_lt _ hp).le]

end Sys2Proof.Machine

/-! # The framer's and the network ports' operations -/
namespace Sys2Proof.Machine

/-- The packet `FR.ENC` builds: `PLD[0, PLEN)` under SEQ (41_framer.md R121). -/
def State.framedPld (s : State) : List Byte :=
  encodePkt s.fr.seq (s.memRead .pld 0 s.fr.plen) s.cfg.csen

/-- `s` with that packet in `TXP[0, TXLEN)` (20_memory.md R52). -/
def State.withFramedPld (s : State) : State :=
  { s with txp := Mem.writeBytes s.txp 0 s.framedPld, fr := { s.fr with txlen := s.framedPld.length } }

section Framer
variable {s : State}

@[simp] theorem State.framedPld_length (s : State) : s.framedPld.length = hdr s.cfg.csen + s.fr.plen := by
  rw [State.framedPld, encodePkt_length, State.memRead_length, Nat.add_comm]

theorem State.withFramedPld_framedInto (s : State) : s.FramedInto s.withFramedPld s.framedPld :=
  State.framedInto_writeBytes rfl rfl rfl

/-! ## `FR.ENC` -/

theorem exec_frEnc_fits (h : hdr s.cfg.csen + s.fr.plen ≤ s.params.rbufCap) :
    exec .frEnc s = .next (s.withFramedPld.done (BitVec.ofNat 64 s.framedPld.length)) := by
  have hpld : s.fr.plen ≤ s.params.rbufCap := (Nat.le_add_left _ _).trans h
  have hput := State.putTxp_ok.mpr ⟨s.framedPld_length.trans_le h, rfl⟩
  rw [State.framedPld] at hput
  change execFrEnc s = _
  rw [execFrEnc, if_neg h.not_gt, State.bufBytes_pld hpld, withMem_ok, hput, withMem_ok]
  rfl

theorem exec_frEnc_oversize (h : s.params.rbufCap < hdr s.cfg.csen + s.fr.plen) :
    exec .frEnc s = .next (s.faulted 0x86 (encode .frEnc)) :=
  if_pos h

/-- Settles O36. -/
theorem frEncFramesThePayload : Obligations.FrEncFramesThePayload := by
  intro s _
  exact ⟨fun hfits => ⟨_, exec_frEnc_fits hfits, s.withFramedPld_framedInto, s.framedPld_length, rfl⟩,
    exec_frEnc_oversize⟩

/-! ## `FR.DEC` -/

theorem exec_frDec_txp (h : s.fr.txlen ≤ s.params.rbufCap) :
    exec (.frDec 1) s = decodeInto (s.memRead .txp 0 s.fr.txlen) s := by
  change withMem (s.bufBytes .txp) _ = _
  rw [State.bufBytes_txp h, withMem_ok]

theorem exec_frDec_rxp {d : Datagram} {q : List Datagram} (h : s.rxq = d :: q) :
    exec (.frDec 2) s = decodeInto d.bytes s := by
  change execFrDec 2 s = _
  have hsp : bufOf 2 = some .rxp := rfl
  simp only [execFrDec, hsp, h]

/-- Settles O37. -/
theorem frDecShowsThePacket : Obligations.FrDecShowsThePacket := by
  rintro s buf d (⟨rfl, hfits, rfl⟩ | ⟨rfl, h, q, hq, rfl⟩)
  · exact ⟨_, exec_frDec_txp hfits, decRegsOf_show _ _, rfl⟩
  · exact ⟨_, exec_frDec_rxp hq, decRegsOf_show _ _, rfl⟩

/-! ## `FR.DEC` after `FR.ENC` -/

/-- The payload stands in the packet at the offset of its header. -/
theorem State.framedPld_getD (s : State) {i : Nat} (b : Byte) (h : i < s.fr.plen) :
    s.framedPld.getD (hdr s.cfg.csen + i) b = s.byteAt .pld i := by
  calc s.framedPld.getD (hdr s.cfg.csen + i) b
    _ = (s.framedPld.drop (hdr s.cfg.csen)).getD i b := by simp
    _ = (s.memRead .pld 0 s.fr.plen).getD i b := by rw [State.framedPld, encodePkt_drop_hdr]
    _ = s.byteAt .pld i := by rw [s.memRead_getD b h, Nat.zero_add]

/-- A packet that stands in TXP is taken apart into its fields (41_framer.md R117, R122). -/
theorem exec_frDec_packet {seq : Word} {payload : List Byte} (hfits : s.fr.txlen ≤ s.params.rbufCap)
    (htxp : s.memRead .txp 0 s.fr.txlen = encodePkt seq payload s.cfg.csen) :
    exec (.frDec 1) s = .next (({ s with
      dec := {
        stat := .ok, seq := seq, plen := payload.length, poff := hdr s.cfg.csen
        csum := if s.cfg.csen then checksum (be32 seq ++ payload) else 0 } } : State).done 0) := by
  rw [exec_frDec_txp hfits, htxp, decodeInto, decRegsOf_encodePkt]
  rfl

/-- Settles O38: TXP reads back as the packet `FR.ENC` built. -/
theorem frDecUndoesFrEnc : Obligations.FrDecUndoesFrEnc := by
  intro s hfits
  have hframed := s.withFramedPld_framedInto
  have hdec := exec_frDec_packet (s := s.withFramedPld.done (BitVec.ofNat 64 s.framedPld.length))
    (s.framedPld_length.trans_le hfits) hframed.memRead
  refine ⟨_, _, exec_frEnc_fits hfits, hdec, rfl, rfl, rfl, rfl, State.memRead_length .., rfl, fun i hi => ?_⟩
  obtain ⟨hstored, -, -⟩ := hframed
  have hinside : hdr s.cfg.csen + i < s.framedPld.length := by
    rw [s.framedPld_length]
    omega
  exact (hstored _ hinside).trans (s.framedPld_getD 0 hi)

/-! ## `NET.TX` and `NET.RXPOP` -/

theorem exec_netTx (h : s.fr.txlen ≤ s.params.rbufCap) :
    exec .netTx s = .next ((s.emit s.cfg.dest (s.memRead .txp 0 s.fr.txlen)).done 0) := by
  change withMem (s.bufBytes .txp) _ = _
  rw [State.bufBytes_txp h, withMem_ok, State.complete_ok]

theorem exec_netRxpop {d : Datagram} {q : List Datagram} (h : s.rxq = d :: q) :
    exec .netRxpop s = .next (({ s with rxq := q } : State).done 0) := by
  change execNetRxpop s = _
  simp only [execNetRxpop, State.popRx, h, List.tail_cons, State.complete_ok]

/-- RXLEN and RXSRC show the head of RXQ (10_state.md R28). -/
theorem readReg_rxq_head {e : Datagram} {r : List Datagram} (h : s.rxq = e :: r) :
    readReg s .rxlen = BitVec.ofNat 64 e.bytes.length ∧ readReg s .rxsrc = e.tag.setWidth 64 := by
  simp only [readReg, State.rxpBytes, State.rxSrc, h, and_self]

/-- Settles O39. -/
theorem netTxEmitsAndNetRxpopDrops : Obligations.NetTxEmitsAndNetRxpopDrops := by
  intro s
  exact ⟨exec_netTx, fun _ _ hq => ⟨exec_netRxpop hq, fun _ _ => readReg_rxq_head (s := { s with rxq := _ })⟩⟩

end Framer

end Sys2Proof.Machine

/-! # The sender controller's operations -/
namespace Sys2Proof.Machine

section SenderStart
variable {s : State}

/-! ## `SND.START` -/

/-- The causes of CFG_RANGE, the header written out (42_sender_arq.md R131). -/
theorem sndConfigBad_iff :
    sndConfigBad s = true ↔
      4294967296 ≤ s.port.wdata.toNat ∨ s.cfg.window = 0 ∨ s.cfg.rto = 0 ∨
        (s.cfg.ctrl.getLsbD 1 = true ∧ s.cfg.kill.toNat ≤ s.cfg.rto.toNat) ∨
        s.params.rbufCap < (if s.cfg.ctrl.getLsbD 0 then 6 else 4) + max s.cfg.psize 10 ∨
        4294967294 < s.port.wdata.toNat % 4294967296 / s.cfg.psize := by
  have hlen : s.port.wdata.toNat / 4294967296 ≠ 0 ↔ 4294967296 ≤ s.port.wdata.toNat := by omega
  simp only [sndConfigBad, Bool.or_eq_true, Bool.and_eq_true, decide_eq_true_eq, hlen, or_assoc, State.frameTooBig]
  rfl

theorem exec_sndStart_badState (h : s.sessionActive = true) :
    exec .sndStart s = .next (s.faulted 0x85 (encode .sndStart)) :=
  if_pos h

theorem exec_sndStart_cfgRange (hidle : s.sessionActive = false) (h : sndConfigBad s = true) :
    exec .sndStart s = .next (s.faulted 0x83 (encode .sndStart)) := by
  change execSndStart s = _
  rw [execSndStart, if_neg (by simp [hidle]), if_pos h]
  rfl

theorem exec_sndStart_creates (hidle : s.sessionActive = false) (h : sndConfigBad s = false) :
    exec .sndStart s = .next (({ s with rxq := [], snd := sndFresh s } : State).done 0) := by
  change execSndStart s = _
  rw [execSndStart, if_neg (by simp [hidle]), if_neg (by simp [h])]
  rfl

/-- Settles O41. -/
theorem sndStartCreatesOrRefuses : Obligations.SndStartCreatesOrRefuses := by
  rintro s len - rfl
  refine ⟨fun h => exec_sndStart_badState (State.sessionActive_iff.mpr h), fun hsnd hrcv hbad => ?_,
    fun hsnd hrcv hlen hwindow hrto hkill hroom hfinal => ?_⟩
  · exact exec_sndStart_cfgRange (s.sessionActive_eq_false.mpr ⟨hsnd, hrcv⟩) (sndConfigBad_iff.mpr hbad)
  · refine exec_sndStart_creates (s.sessionActive_eq_false.mpr ⟨hsnd, hrcv⟩) (Bool.eq_false_iff.mpr fun h => ?_)
    rcases sndConfigBad_iff.mp h with h | h | h | ⟨hken, h⟩ | h | h
    · omega
    · exact hwindow h
    · exact hrto h
    · exact absurd (hkill hken) h.not_gt
    · exact absurd hroom h.not_ge
    · rw [Nat.mod_eq_of_lt hlen] at h
      exact absurd hfinal h.not_ge

end SenderStart

/-! ## The parts of an iteration -/

section IterationParts
variable {cs : Bool} {now : Dword} {d : List Byte} {v : Snd}

/-- R135: an ACK above `last_ack`. -/
theorem sndInbound_ack {n : Nat} (hok : (decodePkt d cs).status = .ok) (hpay : (decodePkt d cs).payload = ctlAck)
    (hseq : (decodePkt d cs).seq.toNat = n) (hnew : v.lastAck < (n : Int)) :
    sndInbound cs now (some d) v = (sndAcked now n v, false) := by
  simp [sndInbound, hok, hpay, hseq, hnew]

/-- R136: a teardown-ack, whatever its number. -/
theorem sndInbound_endAck (hok : (decodePkt d cs).status = .ok) (hpay : (decodePkt d cs).payload = ctlEndAck) :
    sndInbound cs now (some d) v = (sndEnded false v, true) := by
  have hne : ctlEndAck ≠ ctlAck := by decide
  simp [sndInbound, hok, hpay, hne]

/-- R137: any other datagram. -/
theorem sndInbound_other
    (h : (decodePkt d cs).status ≠ .ok ∨
      ((decodePkt d cs).payload = ctlAck ∧ ((decodePkt d cs).seq.toNat : Int) ≤ v.lastAck) ∨
      ((decodePkt d cs).payload ≠ ctlAck ∧ (decodePkt d cs).payload ≠ ctlEndAck)) :
    sndInbound cs now (some d) v = (v, false) := by
  have hne : ctlAck ≠ ctlEndAck := by decide
  rcases h with hbad | ⟨hack, hold⟩ | ⟨hack, hend⟩
  · simp [sndInbound, hbad]
  · simp [sndInbound, hack, hold.not_gt, hne]
  · simp [sndInbound, hack, hend]

/-- R138: the time-out is due, strictly after RTO. -/
theorem sndRetransmit_due {rto : Word} {k : Nat} (hk : v.toSend = .sending k)
    (h : v.rtxT0.toNat + rto.toNat < now.toNat) :
    sndRetransmit rto now v = { v with toSend := .sending v.windowStart, rtxT0 := now } := by
  have hdue : rto.toNat < now.toNat - v.rtxT0.toNat := by omega
  simp only [sndRetransmit, hk, if_pos hdue]

theorem sndRetransmit_early {rto : Word} (h : now.toNat ≤ v.rtxT0.toNat + rto.toNat) :
    sndRetransmit rto now v = v := by
  have hearly : ¬rto.toNat < now.toNat - v.rtxT0.toNat := by omega
  unfold sndRetransmit
  split
  · rfl
  · exact if_neg hearly

theorem sndRetransmit_tearingDown {rto : Word} (h : v.toSend = .tearingDown) : sndRetransmit rto now v = v := by
  simp only [sndRetransmit, h]

/-- R139: when the kill time-out is due. -/
theorem sndKillDue_iff {c : CfgRegs} :
    sndKillDue c now v = true ↔
      c.ctrl.getLsbD 1 = true ∧ v.tdValid = true ∧ v.tdT0.toNat + c.kill.toNat < now.toNat := by
  have hdue : c.kill.toNat < now.toNat - v.tdT0.toNat ↔ v.tdT0.toNat + c.kill.toNat < now.toNat := by omega
  simp only [sndKillDue, Bool.and_eq_true, decide_eq_true_eq, hdue, and_assoc, CfgRegs.killen]

variable {s : State}

/-- R140: the next data packet is inside the window, and not beyond a known final one. -/
theorem sndSend_data {k : Nat} (hk : v.toSend = .sending k) (hin : k < v.windowStart + v.windowSize)
    (hbar : v.lastPacket = -1 ∨ (k : Int) ≤ v.lastPacket) :
    sndSend s now v =
      (sndSent k (decide ((dataPayload s k).length < s.cfg.psize)) v,
        some (encodePkt (seqField k) (dataPayload s k) s.cfg.csen)) := by
  simp only [sndSend, hk, if_pos (And.intro hin hbar)]

/-- R143: the window is full, or everything is sent. -/
theorem sndSend_waits {k : Nat} (hk : v.toSend = .sending k)
    (h : v.windowStart + v.windowSize ≤ k ∨ (v.lastPacket ≠ -1 ∧ v.lastPacket < (k : Int))) :
    sndSend s now v = (v, none) := by
  have hno : ¬(k < v.windowStart + v.windowSize ∧ (v.lastPacket = -1 ∨ (k : Int) ≤ v.lastPacket)) := by omega
  simp only [sndSend, hk, if_neg hno]

/-- R142: while teardown is pending. -/
theorem sndSend_tearingDown (h : v.toSend = .tearingDown) :
    sndSend s now v = (sndTornDown now v, some (encodePkt (seqField (v.lastPacket + 1)) ctlEnd s.cfg.csen)) := by
  simp only [sndSend, h]

end IterationParts

/-! ## Parts 2 to 4 together -/

/-- What an iteration does with the session variables `v` that part 1 left, if it goes on (42_sender_arq.md R134, parts
2 to 4). -/
def sndRest (s : State) (now : Dword) (v : Snd) : Snd × Option (List Byte) :=
  if sndKillDue s.cfg now (sndRetransmit s.cfg.rto now v) then (sndEnded true (sndRetransmit s.cfg.rto now v), none)
  else sndSend s now (sndRetransmit s.cfg.rto now v)

section Rest
variable {s t : State} {now : Dword} {v : Snd}

theorem sndIter_goes_on {dg : Option (List Byte)} (h : sndInbound s.cfg.csen now dg s.snd = (v, false)) :
    sndIter s now dg = sndRest s now v := by
  simp only [sndIter, h]
  rfl

theorem sndIter_ends {dg : Option (List Byte)} (h : sndInbound s.cfg.csen now dg s.snd = (v, true)) :
    sndIter s now dg = (v, none) := by
  simp [sndIter, h]

theorem sndIter_none : sndIter s now none = sndRest s now s.snd :=
  sndIter_goes_on rfl

/-- No time-out is due: the send decision alone. -/
theorem sndRest_send (hrtx : sndRetransmit s.cfg.rto now v = v) (hkill : ¬sndKillDue s.cfg now v = true) :
    sndRest s now v = sndSend s now v := by
  rw [sndRest, hrtx, if_neg hkill]

/-- The kill time-out is due, and the retransmit time-out is not. -/
theorem sndRest_kill (hrtx : sndRetransmit s.cfg.rto now v = v) (hkill : sndKillDue s.cfg now v = true) :
    sndRest s now v = (sndEnded true v, none) := by
  rw [sndRest, hrtx, if_pos hkill]

theorem dataPayload_congr (hcfg : t.cfg = s.cfg) (htbuf : t.tbuf = s.tbuf) (hlen : t.snd.len = s.snd.len) (k : Nat) :
    dataPayload t k = dataPayload s k := by
  rw [dataPayload, dataPayload, hcfg, hlen]
  exact State.memRead_congr fun i _ => by rw [State.byteAt_tbuf, State.byteAt_tbuf, htbuf]

/-- The state gives the configuration, `s_len` and TBUF only. -/
theorem sndRest_congr (hcfg : t.cfg = s.cfg) (htbuf : t.tbuf = s.tbuf) (hlen : t.snd.len = s.snd.len) :
    sndRest t now v = sndRest s now v := by
  simp only [sndRest, sndSend, hcfg, dataPayload_congr hcfg htbuf hlen]

end Rest

/-! ## The completion of `SND.STEP` -/

/-- `s` after a `SND.STEP` whose iteration gave `r` (42_sender_arq.md R132, 30_encoding.md R83). -/
def State.sndDone (s : State) (rxc : Bool) (r : Snd × Option (List Byte)) : State :=
  (({ s with snd := r.1 } : State).afterSend s.cfg.dest r.2).done
    (stepResult r.2.isSome rxc r.1.term (sndStateOf r.1).code)

section Completion
variable {s t : State} {rxc : Bool} {r : Snd × Option (List Byte)}

theorem sndFinish_fits (h : ∀ p ∈ r.2, p.length ≤ s.params.rbufCap) :
    sndFinish rxc r s = .next (s.sndDone rxc r) := by
  obtain ⟨v, _ | p⟩ := r
  · rfl
  · simp only [sndFinish, emitFramed_fits (s := { s with snd := v }) (h p rfl), withMem_ok]
    rfl

/-- `SND.STEP` completes exactly when the packet fits TXP. -/
theorem sndFinish_next_iff :
    sndFinish rxc r s = .next t ↔ (∀ p ∈ r.2, p.length ≤ s.params.rbufCap) ∧ t = s.sndDone rxc r := by
  refine ⟨fun h => ?_, fun ⟨hfits, ht⟩ => ht ▸ sndFinish_fits hfits⟩
  have hfits : ∀ p ∈ r.2, p.length ≤ s.params.rbufCap := by
    rcases sndFinish_next h with ⟨hnone, -⟩ | ⟨p, hsome, hlen, -⟩
    · simp [hnone]
    · simpa [hsome] using hlen
  rw [sndFinish_fits hfits] at h
  cases h
  exact ⟨hfits, rfl⟩

/-- RXC is bit 1 of the result (30_encoding.md R83). -/
theorem stepResult_rxc (tx term : Bool) (st : Nat) : stepResult tx true term st = stepResult tx false term st + 2 := by
  have hnat : tx.toNat + 2 * true.toNat + 4 * term.toNat + 256 * st =
      tx.toNat + 2 * false.toNat + 4 * term.toNat + 256 * st + 2 := by
    simp only [Bool.toNat_true, Bool.toNat_false]
    omega
  rw [stepResult, hnat, BitVec.ofNat_add]
  rfl

/-- A step that consumed a datagram shows it in RXQ and in RXC only. -/
theorem State.sndDone_rxc (q : List Datagram) (v : Snd) :
    ({ s with rxq := q } : State).sndDone true r =
      { ({ s with rxq := [], snd := v } : State).sndDone false r with
        rxq := q
        port := { (({ s with rxq := [], snd := v } : State).sndDone false r).port with
          rdata := (({ s with rxq := [], snd := v } : State).sndDone false r).port.rdata + 2 } } := by
  obtain ⟨u, _ | p⟩ := r <;> simp only [State.sndDone, stepResult_rxc] <;> rfl

theorem exec_sndStep_inactive (h : s.snd.act = false) :
    exec .sndStep s = .next (s.faulted 0x85 (encode .sndStep)) := by
  change execSndStep s = _
  rw [execSndStep, if_neg (by simp [h])]
  rfl

/-- `SND.STEP` on an empty queue. -/
theorem exec_sndStep_empty (hact : s.snd.act = true) (hq : s.rxq = []) :
    exec .sndStep s = sndFinish false (sndRest s s.time s.snd) s := by
  change execSndStep s = _
  simp only [execSndStep, if_pos hact, hq, sndIter_none]

/-- `SND.STEP` on an empty queue overwrites the session variables, and reads of the old ones S_LEN beside. -/
theorem exec_sndStep_with_snd {v : Snd} (hact : v.act = true) (hlen : v.len = s.snd.len) (hq : s.rxq = []) :
    exec .sndStep { s with snd := v } = sndFinish false (sndRest s s.time v) s := by
  have hrest : sndRest { s with snd := v } s.time v = sndRest s s.time v := sndRest_congr rfl rfl hlen
  rw [exec_sndStep_empty (s := { s with snd := v }) hact hq, hrest]
  rfl

/-- `SND.STEP` takes the head of the queue. -/
theorem exec_sndStep_cons {d : Datagram} {q : List Datagram} (hact : s.snd.act = true) (hq : s.rxq = d :: q) :
    exec .sndStep s = sndFinish true (sndIter s s.time (some d.bytes)) { s with rxq := q } := by
  change execSndStep s = _
  simp only [execSndStep, if_pos hact, hq, State.popRx, List.tail_cons]

/-- A datagram after which the iteration goes on, with the session variables `v`: the step is that of the empty queue
from `v` on, with RXC reported. -/
theorem exec_sndStep_after_datagram {d : Datagram} {q : List Datagram} {v : Snd} (hact : s.snd.act = true)
    (hq : s.rxq = d :: q) (hin : sndInbound s.cfg.csen s.time (some d.bytes) s.snd = (v, false))
    (hvact : v.act = true) (hlen : v.len = s.snd.len)
    (h : exec .sndStep { s with rxq := [], snd := v } = .next t) :
    exec .sndStep s = .next { t with rxq := q, port := { t.port with rdata := t.port.rdata + 2 } } := by
  have hrest : sndRest { s with rxq := [], snd := v } s.time v = sndRest s s.time v := sndRest_congr rfl rfl hlen
  rw [exec_sndStep_empty (s := { s with rxq := [], snd := v }) hvact rfl, hrest, sndFinish_next_iff] at h
  obtain ⟨hfits, rfl⟩ := h
  rw [exec_sndStep_cons hact hq, sndIter_goes_on hin, ← State.sndDone_rxc]
  exact sndFinish_fits hfits

end Completion

/-! ## `SND.STEP` with nothing received -/

section EmptyQueue
variable {s : State}

/-- A data packet fits TXP (41_framer.md R119). -/
theorem dataPacket_fits (hroom : s.frameTooBig = false) (seq : Word) (k : Nat) :
    (encodePkt seq (dataPayload s k) s.cfg.csen).length ≤ s.params.rbufCap := by
  have := State.frameTooBig_false.mp hroom
  rw [encodePkt_length, dataPayload_length]
  omega

/-- The teardown packet fits TXP (41_framer.md R119). -/
theorem endPacket_fits (hroom : s.frameTooBig = false) (seq : Word) :
    (encodePkt seq ctlEnd s.cfg.csen).length ≤ s.params.rbufCap := by
  have := State.frameTooBig_false.mp hroom
  rw [encodePkt_length, ctlEnd_length]
  omega

/-- No time-out is due, with `td_valid` 0. -/
theorem sndRest_data (htd : s.snd.tdValid = false) (hearly : s.time.toNat ≤ s.snd.rtxT0.toNat + s.cfg.rto.toNat) :
    sndRest s s.time s.snd = sndSend s s.time s.snd :=
  sndRest_send (sndRetransmit_early hearly) (by simp [sndKillDue_iff, htd])

@[simp] theorem sndSent_act (k : Nat) (short : Bool) (v : Snd) : (sndSent k short v).act = v.act := by
  cases short <;> rfl

@[simp] theorem sndSent_term (k : Nat) (short : Bool) (v : Snd) : (sndSent k short v).term = v.term := by
  cases short <;> rfl

@[simp] theorem sndSent_toSend (k : Nat) (short : Bool) (v : Snd) : (sndSent k short v).toSend = .sending (k + 1) := by
  cases short <;> rfl

/-- A short packet is the final one (42_sender_arq.md R141). -/
@[simp] theorem sndSent_lastPacket (k : Nat) (short : Bool) (v : Snd) :
    (sndSent k short v).lastPacket = if short then (k : Int) else v.lastPacket := by
  cases short <;> rfl

/-- The result word of a step that leaves the session sending (30_encoding.md R83, 10_state.md R36). -/
theorem stepResult_sending {v : Snd} {k : Nat} (tx : Bool) (hact : v.act = true) (hterm : v.term = false)
    (hk : v.toSend = .sending k) :
    stepResult tx false v.term (sndStateOf v).code =
      BitVec.ofNat 64 (tx.toNat + if v.lastPacket = -1 then 0x100 else 0x200) := by
  by_cases hlp : v.lastPacket = -1 <;> simp [stepResult, sndStateOf, SndState.code, hact, hterm, hk, hlp]

/-- A step on an empty queue that sends the packet `p` (42_sender_arq.md R132). -/
theorem exec_sndStep_sends {v : Snd} {p : List Byte} (hact : s.snd.act = true) (hq : s.rxq = [])
    (hrest : sndRest s s.time s.snd = (v, some p)) (hfits : p.length ≤ s.params.rbufCap) :
    exec .sndStep s = .next (s.sndDone false (v, some p)) ∧ s.FramedInto (s.sndDone false (v, some p)) p := by
  refine ⟨?_, State.framedInto_writeBytes rfl rfl rfl⟩
  rw [exec_sndStep_empty hact hq, hrest]
  exact sndFinish_fits fun _ hp => Option.mem_some.mp hp ▸ hfits

/-- Settles O42. -/
theorem sndStepSendsTheNextPacket : Obligations.SndStepSendsTheNextPacket := by
  intro s k payload hact hterm hroom hq hk htd hearly hin hbar hlt hpay
  have hdata : dataPayload s k = payload := by rw [hpay, dataPayload, sliceLen_eq]
  have hrest := (sndRest_data htd hearly).trans (sndSend_data hk hin hbar)
  have hfits := dataPacket_fits hroom (BitVec.ofNat 32 k) k
  rw [hdata] at hrest hfits
  rw [seqField_nat hlt] at hrest
  obtain ⟨hexec, hframed⟩ := exec_sndStep_sends hact hq hrest hfits
  refine ⟨_, hexec, hframed, rfl, ?_, ?_, rfl⟩
  · by_cases hshort : payload.length < s.cfg.psize <;> simp [State.sndDone, State.done, sndSent, shrunkWindow, hshort]
  · have hresult := stepResult_sending true (v := sndSent k (decide (payload.length < s.cfg.psize)) s.snd)
      (by simpa using hact) (by simpa using hterm) (sndSent_toSend ..)
    have hknown : ((if payload.length < s.cfg.psize then (k : Int) else s.snd.lastPacket) = -1) ↔
        ¬(payload.length < s.cfg.psize ∨ s.snd.lastPacket ≠ -1) := by
      split <;> omega
    simp only [State.sndDone, State.done, State.afterSend_port, Option.isSome_some, hresult, sndSent_lastPacket,
      decide_eq_true_eq, hknown, ite_not]
    split <;> rfl

/-- Settles O43. -/
theorem sndStepWaitsForAcks : Obligations.SndStepWaitsForAcks := by
  intro s k hact hterm hq hk htd hearly hwait
  rw [exec_sndStep_empty hact hq, sndRest_data htd hearly, sndSend_waits hk hwait, sndFinish_fits (by simp),
    State.sndDone, stepResult_sending _ hact hterm hk]
  by_cases hlp : s.snd.lastPacket = -1 <;> simp [hlp, State.afterSend]

/-- After a retransmit time-out no time-out is due (42_sender_arq.md R138). -/
theorem sndRest_goesBack {now : Dword} {v : Snd} {k : Nat} (hk : v.toSend = .sending k)
    (hdue : v.rtxT0.toNat + s.cfg.rto.toNat < now.toNat) :
    sndRest s now v = sndRest s now { v with toSend := .sending v.windowStart, rtxT0 := now } := by
  rw [sndRest, sndRest, sndRetransmit_due hk hdue,
    sndRetransmit_early (v := { v with toSend := .sending v.windowStart, rtxT0 := now }) (Nat.le_add_right _ _)]

/-- Settles O46. -/
theorem sndStepGoesBackOnTimeout : Obligations.SndStepGoesBackOnTimeout := by
  intro s k hact hq hk hdue
  rw [exec_sndStep_empty hact hq, sndRest_goesBack hk hdue]
  symm
  exact exec_sndStep_with_snd hact rfl hq

/-- Settles O48. -/
theorem sndStepSendsTheTeardown : Obligations.SndStepSendsTheTeardown := by
  intro s n hact hterm hroom hq htear hn hlt hlive
  have hkill : ¬sndKillDue s.cfg s.time s.snd = true := by
    rw [sndKillDue_iff]
    rintro ⟨hken, htd, hdue⟩
    rcases hlive with h | h | h
    · exact Bool.false_ne_true (h.symm.trans hken)
    · exact Bool.false_ne_true (h.symm.trans htd)
    · exact absurd hdue h.not_gt
  have hrest := (sndRest_send (sndRetransmit_tearingDown htear) hkill).trans (sndSend_tearingDown htear)
  rw [hn, seqField_nat hlt] at hrest
  obtain ⟨hexec, hframed⟩ := exec_sndStep_sends hact hq hrest (endPacket_fits hroom _)
  refine ⟨_, hexec, hframed, rfl, rfl, ?_⟩
  have hresult : stepResult true false (sndTornDown s.time s.snd).term (sndStateOf (sndTornDown s.time s.snd)).code =
      0x401 := by
    by_cases htd : s.snd.tdValid = true <;>
      simp [sndTornDown, htd, sndStateOf, hact, hterm, htear, stepResult, SndState.code]
  rw [State.sndDone, Option.isSome_some, hresult]
  rfl

end EmptyQueue

/-! ## `SND.STEP` with a datagram -/

/-- Settles O44. -/
theorem sndStepAppliesAnAckFirst : Obligations.SndStepAppliesAnAckFirst := by
  intro s t d q seq hact hq hok hpay hseq hnew h
  exact exec_sndStep_after_datagram hact hq (sndInbound_ack hok hpay hseq hnew) hact rfl h

/-- Settles O45. -/
theorem sndStepIgnoresOtherDatagrams : Obligations.SndStepIgnoresOtherDatagrams := by
  rintro s t d q _ hact hq rfl hother h
  exact exec_sndStep_after_datagram hact hq (sndInbound_other hother) hact rfl h

/-- Settles O47. -/
theorem sndStepEndsTheSession : Obligations.SndStepEndsTheSession := by
  refine fun s hact => ⟨fun d q hq hok hpay => ?_, fun hq htear hken htd hdue => ?_⟩
  · rw [exec_sndStep_cons hact hq, sndIter_ends (sndInbound_endAck hok hpay), sndFinish_fits (by simp)]
    simp only [State.sndDone, sndEnded, Bool.or_false]
    rfl
  · have hkill := sndKillDue_iff.mpr ⟨hken, htd, hdue⟩
    rw [exec_sndStep_empty hact hq, sndRest_kill (sndRetransmit_tearingDown htear) hkill, sndFinish_fits (by simp)]
    simp only [State.sndDone, sndEnded, Bool.or_true]
    rfl

/-! ## What one iteration keeps of the sequence state -/

/-- What parts 2 to 4 of an iteration keep: what is acknowledged, whether teardown is pending, and a known final packet,
but for a smaller one. -/
structure Snd.Proceeds (v w : Snd) : Prop where
  lastAck_eq : w.lastAck = v.lastAck
  windowStart_eq : w.windowStart = v.windowStart
  tearing_iff : w.toSend = .tearingDown ↔ v.toSend = .tearingDown
  lastPacket_tearing : v.toSend = .tearingDown → w.lastPacket = v.lastPacket
  lastPacket_le : v.lastPacket ≠ -1 → w.lastPacket ≠ -1 ∧ w.lastPacket ≤ v.lastPacket
  tdValid_eq : v.toSend ≠ .tearingDown → w.tdValid = v.tdValid

/-- Everything sent up to a known final packet, which is acknowledged: `to_send` and `window_start` are beyond it
(42_sender_arq.md R148 (a)). -/
structure Snd.Idles (v : Snd) : Prop where
  known : v.lastPacket ≠ -1
  windowStart_gt : v.lastPacket < (v.windowStart : Int)
  toSend_gt : ∃ k, v.toSend = .sending k ∧ v.lastPacket < (k : Int)

section SequenceState
variable {s : State} {now : Dword} {u v w : Snd}

theorem Snd.Proceeds.refl (v : Snd) : v.Proceeds v :=
  ⟨rfl, rfl, .rfl, fun _ => rfl, fun h => ⟨h, le_rfl⟩, fun _ => rfl⟩

theorem Snd.Proceeds.trans (h₁ : u.Proceeds v) (h₂ : v.Proceeds w) : u.Proceeds w where
  lastAck_eq := h₂.lastAck_eq.trans h₁.lastAck_eq
  windowStart_eq := h₂.windowStart_eq.trans h₁.windowStart_eq
  tearing_iff := h₂.tearing_iff.trans h₁.tearing_iff
  lastPacket_tearing ht := (h₂.lastPacket_tearing (h₁.tearing_iff.mpr ht)).trans (h₁.lastPacket_tearing ht)
  lastPacket_le hu :=
    have ⟨hv, hle₁⟩ := h₁.lastPacket_le hu
    have ⟨hw, hle₂⟩ := h₂.lastPacket_le hv
    ⟨hw, hle₂.trans hle₁⟩
  tdValid_eq ht := (h₂.tdValid_eq (mt h₁.tearing_iff.mp ht)).trans (h₁.tdValid_eq ht)

theorem Snd.proceeds_ended (f : Bool) (v : Snd) : v.Proceeds (sndEnded f v) :=
  { Snd.Proceeds.refl v with }

theorem Snd.proceeds_retransmit (rto : Word) (now : Dword) (v : Snd) : v.Proceeds (sndRetransmit rto now v) := by
  rcases sndRetransmit_cases rto now v with h | ⟨⟨k, hk⟩, h⟩ <;> rw [h]
  · exact .refl v
  · exact { Snd.Proceeds.refl v with tearing_iff := by simp [hk] }

theorem Snd.proceeds_tornDown (now : Dword) (ht : v.toSend = .tearingDown) : v.Proceeds (sndTornDown now v) := by
  unfold sndTornDown
  split
  · exact .refl v
  · exact { Snd.Proceeds.refl v with tdValid_eq := fun h => absurd ht h }

theorem Snd.proceeds_sent {k : Nat} (short : Bool) (hk : v.toSend = .sending k)
    (hbar : v.lastPacket = -1 ∨ (k : Int) ≤ v.lastPacket) : v.Proceeds (sndSent k short v) := by
  cases short
  · exact { Snd.Proceeds.refl v with tearing_iff := by simp [hk] }
  · refine { Snd.Proceeds.refl v with
      tearing_iff := by simp [hk], lastPacket_tearing := fun h => by simp [hk] at h, lastPacket_le := fun hv => ?_ }
    rw [sndSent_lastPacket, if_pos rfl]
    omega

theorem Snd.proceeds_send (s : State) (now : Dword) (v : Snd) : v.Proceeds (sndSend s now v).1 := by
  rcases sndSend_cases s now v with ⟨ht, h⟩ | ⟨k, hk, -, hbar, h⟩ | ⟨-, h⟩ <;> rw [h]
  · exact Snd.proceeds_tornDown now ht
  · exact Snd.proceeds_sent _ hk hbar
  · exact .refl v

theorem Snd.proceeds_rest (s : State) (now : Dword) (v : Snd) : v.Proceeds (sndRest s now v).1 := by
  have hrtx := Snd.proceeds_retransmit s.cfg.rto now v
  unfold sndRest
  split
  · exact hrtx.trans (Snd.proceeds_ended true _)
  · exact hrtx.trans (Snd.proceeds_send s now _)

/-- An iteration applies an ACK above `last_ack`, if there is one, and proceeds from there. -/
theorem sndIter_proceeds (s : State) (now : Dword) (dg : Option (List Byte)) :
    s.snd.Proceeds (sndIter s now dg).1 ∨
      ∃ n : Nat, s.snd.lastAck < (n : Int) ∧ (sndAcked now n s.snd).Proceeds (sndIter s now dg).1 := by
  cases dg with
  | none =>
    rw [sndIter_none]
    exact .inl (Snd.proceeds_rest s now _)
  | some d =>
    rcases sndInbound_some s.cfg.csen now d s.snd with ⟨-, -, hnew, h⟩ | ⟨-, -, h⟩ | ⟨-, h⟩
    · rw [sndIter_goes_on h]
      exact .inr ⟨_, hnew, Snd.proceeds_rest s now _⟩
    · rw [sndIter_ends h]
      exact .inl (Snd.proceeds_ended false _)
    · rw [sndIter_goes_on h]
      exact .inl (Snd.proceeds_rest s now _)

/-- R132, R37 (d): nothing goes back, and teardown begins only with the acknowledged final packet. -/
theorem sndIter_advances (s : State) (now : Dword) (dg : Option (List Byte)) :
    s.snd.lastAck ≤ (sndIter s now dg).1.lastAck ∧ s.snd.windowStart ≤ (sndIter s now dg).1.windowStart ∧
      (s.snd.toSend ≠ .tearingDown → (sndIter s now dg).1.toSend = .tearingDown →
        (sndIter s now dg).1.lastAck = (sndIter s now dg).1.lastPacket) := by
  rcases sndIter_proceeds s now dg with hp | ⟨n, hnew, hp⟩
  · exact ⟨hp.lastAck_eq.ge, hp.windowStart_eq.ge, fun hs ht => absurd (hp.tearing_iff.mp ht) hs⟩
  · rw [hp.lastAck_eq, hp.windowStart_eq]
    refine ⟨hnew.le, Nat.le_add_right _ _, fun hs ht => ?_⟩
    have hacked := hp.tearing_iff.mp ht
    rw [hp.lastPacket_tearing hacked]
    by_contra hne
    simp only [sndAcked] at hacked hne
    rw [if_neg hne] at hacked
    exact hs hacked

/-- R148 (a): past a known final packet teardown never begins. -/
theorem sndIter_past_final (now : Dword) (dg : Option (List Byte)) (hs : s.snd.toSend ≠ .tearingDown)
    (hknown : s.snd.lastPacket ≠ -1) (hpast : s.snd.lastPacket < s.snd.lastAck) :
    (sndIter s now dg).1.toSend ≠ .tearingDown ∧ (sndIter s now dg).1.tdValid = s.snd.tdValid ∧
      (sndIter s now dg).1.lastPacket ≠ -1 ∧ (sndIter s now dg).1.lastPacket < (sndIter s now dg).1.lastAck := by
  rcases sndIter_proceeds s now dg with hp | ⟨n, hnew, hp⟩
  · obtain ⟨hk, hle⟩ := hp.lastPacket_le hknown
    exact ⟨mt hp.tearing_iff.mp hs, hp.tdValid_eq hs, hk, hp.lastAck_eq ▸ hle.trans_lt hpast⟩
  · obtain ⟨hk, hle⟩ := hp.lastPacket_le hknown
    have hacked : (sndAcked now n s.snd).toSend ≠ .tearingDown := by
      have hne : (n : Int) ≠ s.snd.lastPacket := (hpast.trans hnew).ne'
      simpa only [sndAcked, if_neg hne] using hs
    exact ⟨mt hp.tearing_iff.mp hacked, hp.tdValid_eq hacked, hk, hp.lastAck_eq ▸ hle.trans_lt (hpast.trans hnew)⟩

/-! ### The idle session -/

theorem Snd.Idles.acked {n : Nat} (h : v.Idles) (hpast : v.lastPacket < v.lastAck) (hnew : v.lastAck < (n : Int)) :
    (sndAcked now n v).Idles := by
  have hne : (n : Int) ≠ v.lastPacket := (hpast.trans hnew).ne'
  refine { h with windowStart_gt := ?_, toSend_gt := by simpa only [sndAcked, if_neg hne] using h.toSend_gt }
  have := h.windowStart_gt
  simp only [sndAcked]
  omega

theorem Snd.Idles.retransmit {rto : Word} (h : v.Idles) :
    (sndRetransmit rto now v).Idles ∧ (sndRetransmit rto now v).lastPacket = v.lastPacket := by
  rcases sndRetransmit_cases rto now v with hr | ⟨-, hr⟩ <;> rw [hr]
  · exact ⟨h, rfl⟩
  · exact ⟨{ h with toSend_gt := ⟨_, rfl, h.windowStart_gt⟩ }, rfl⟩

/-- An idle session goes on idling, or is killed: nothing is sent. -/
theorem Snd.Idles.rest (h : v.Idles) :
    (sndRest s now v).2 = none ∧ (sndRest s now v).1.Idles ∧ (sndRest s now v).1.lastPacket = v.lastPacket := by
  obtain ⟨hidle, hlp⟩ := h.retransmit (rto := s.cfg.rto) (now := now)
  obtain ⟨k, hk, hgt⟩ := hidle.toSend_gt
  unfold sndRest
  split
  · exact ⟨rfl, { hidle with }, hlp⟩
  · rw [sndSend_waits hk (.inr ⟨hidle.known, hgt⟩)]
    exact ⟨rfl, hidle, hlp⟩

theorem Snd.Idles.iter (dg : Option (List Byte)) (h : s.snd.Idles) (hpast : s.snd.lastPacket < s.snd.lastAck) :
    (sndIter s now dg).2 = none ∧ (sndIter s now dg).1.Idles ∧
      (sndIter s now dg).1.lastPacket = s.snd.lastPacket := by
  cases dg with
  | none =>
    rw [sndIter_none]
    exact h.rest
  | some d =>
    rcases sndInbound_some s.cfg.csen now d s.snd with ⟨-, -, hnew, hin⟩ | ⟨-, -, hin⟩ | ⟨-, hin⟩
    · rw [sndIter_goes_on hin]
      exact (h.acked hpast hnew).rest
    · rw [sndIter_ends hin]
      exact ⟨rfl, { h with }, rfl⟩
    · rw [sndIter_goes_on hin]
      exact h.rest

/-! ### Completion -/

theorem sndSend_fits (hroom : s.frameTooBig = false) : ∀ p ∈ (sndSend s now v).2, p.length ≤ s.params.rbufCap := by
  rcases sndSend_cases s now v with ⟨-, h⟩ | ⟨k, -, -, -, h⟩ | ⟨-, h⟩ <;> rw [h]
  · rintro _ ⟨⟩
    exact endPacket_fits hroom _
  · rintro _ ⟨⟩
    exact dataPacket_fits hroom _ k
  · exact nofun

theorem sndRest_fits (hroom : s.frameTooBig = false) : ∀ p ∈ (sndRest s now v).2, p.length ≤ s.params.rbufCap := by
  unfold sndRest
  split
  · exact nofun
  · exact sndSend_fits hroom

/-- Every packet an iteration gives fits TXP (41_framer.md R119). -/
theorem sndIter_fits (hroom : s.frameTooBig = false) (dg : Option (List Byte)) :
    ∀ p ∈ (sndIter s now dg).2, p.length ≤ s.params.rbufCap := by
  rcases hin : sndInbound s.cfg.csen now dg s.snd with ⟨v, _ | _⟩
  · rw [sndIter_goes_on hin]
    exact sndRest_fits hroom
  · rw [sndIter_ends hin]
    exact nofun

/-- `SND.STEP` completes in every active session that START accepted. -/
theorem exec_sndStep_completes (hact : s.snd.act = true) (hroom : s.frameTooBig = false) :
    ∃ rxc, exec .sndStep s =
      .next (s.popRx.sndDone rxc (sndIter s s.time (s.rxq.head?.map (·.bytes)))) := by
  obtain ⟨rxc, h⟩ := execSndStep_active hact
  exact ⟨rxc, h.trans (sndFinish_fits (s := s.popRx) (sndIter_fits hroom _))⟩

/-- At most one packet is emitted, and it stands in TXP. -/
theorem State.sndDone_emits (s : State) (rxc : Bool) (r : Snd × Option (List Byte)) :
    ((s.sndDone rxc r).netOut = s.netOut ∧ (s.sndDone rxc r).txp = s.txp ∧ (s.sndDone rxc r).fr = s.fr) ∨
      ∃ p, (s.sndDone rxc r).netOut = s.netOut ++ [{ tag := s.cfg.dest, bytes := p }] ∧
        s.FramedInto (s.sndDone rxc r) p := by
  obtain ⟨v, _ | p⟩ := r
  · exact .inl ⟨rfl, rfl, rfl⟩
  · exact .inr ⟨p, rfl, State.framedInto_writeBytes rfl rfl rfl⟩

/-- Settles O49. -/
theorem sndStepCompletesAndNeverGoesBack : Obligations.SndStepCompletesAndNeverGoesBack := by
  refine fun s => ⟨exec_sndStep_inactive, fun hact hroom => ?_⟩
  obtain ⟨rxc, hexec⟩ := exec_sndStep_completes hact hroom
  refine ⟨_, hexec, rfl, ?_⟩
  have hsnd : (s.popRx.sndDone rxc (sndIter s s.time (s.rxq.head?.map (·.bytes)))).snd =
      (sndIter s s.time (s.rxq.head?.map (·.bytes))).1 := State.afterSend_snd ..
  obtain ⟨hack, hstart, htear⟩ := sndIter_advances s s.time (s.rxq.head?.map (·.bytes))
  rw [hsnd]
  refine ⟨hack, hstart, State.afterSend_rxq .., htear, sndIter_past_final _ _, fun k hk hknown hpast hgt heq => ?_,
    s.popRx.sndDone_emits rxc _⟩
  have hidle : s.snd.Idles := ⟨hknown, by omega, k, hk, hgt⟩
  obtain ⟨hnone, hstays, hlp⟩ := hidle.iter (now := s.time) (s.rxq.head?.map (·.bytes)) hpast
  refine ⟨?_, hlp, hstays.toSend_gt⟩
  change (State.afterSend _ _ (sndIter s s.time (s.rxq.head?.map (·.bytes))).2).netOut = _
  rw [hnone]
  rfl

end SequenceState

end Sys2Proof.Machine

/-! # The receiver controller's operations -/
namespace Sys2Proof.Machine

section ReceiverStart
variable {s : State}

/-! ## `RCV.START` -/

theorem exec_rcvStart_badState (h : s.sessionActive = true) :
    exec .rcvStart s = .next (s.faulted 0x85 (encode .rcvStart)) :=
  if_pos h

theorem exec_rcvStart_cfgRange (hidle : s.sessionActive = false) (h : s.frameTooBig = true) :
    exec .rcvStart s = .next (s.faulted 0x83 (encode .rcvStart)) := by
  change execRcvStart s = _
  rw [execRcvStart, if_neg (by simp [hidle]), if_pos h]
  rfl

theorem exec_rcvStart_creates (hidle : s.sessionActive = false) (h : s.frameTooBig = false) :
    exec .rcvStart s = .next (({ s with rxq := [], rcv := rcvFresh } : State).done 0) := by
  change execRcvStart s = _
  rw [execRcvStart, if_neg (by simp [hidle]), if_neg (by simp [h])]
  rfl

/-- Settles O50. -/
theorem rcvStartCreatesOrRefuses : Obligations.RcvStartCreatesOrRefuses := by
  refine fun s => ⟨fun h => exec_rcvStart_badState (State.sessionActive_iff.mpr h), fun hsnd hrcv hbig => ?_,
    fun hsnd hrcv hroom => ?_⟩
  · exact exec_rcvStart_cfgRange (s.sessionActive_eq_false.mpr ⟨hsnd, hrcv⟩) (decide_eq_true hbig)
  · exact exec_rcvStart_creates (s.sessionActive_eq_false.mpr ⟨hsnd, hrcv⟩) (State.frameTooBig_false.mpr hroom)

end ReceiverStart

/-! ## What the receiver does with a valid packet, case by case -/

section Accepting
variable {p : Packet} {s : State}

/-- R155, R158: a teardown, whatever its number, once something was received. -/
theorem rcvAccept_end_replies {n : Nat} (hend : p.payload = ctlEnd) (hn : s.rcv.lastRecvd = n) (hlt : n < 4294967296) :
    rcvAccept p s = ({ s with rcv := { s.rcv with term := true, act := false } },
      some (encodePkt (BitVec.ofNat 32 n) ctlEndAck s.cfg.csen)) := by
  simp [rcvAccept, hend, hn, seqField_nat hlt]

/-- R155, R158: a teardown before anything was received. -/
theorem rcvAccept_end_silent (hend : p.payload = ctlEnd) (hnone : s.rcv.lastRecvd = -1) :
    rcvAccept p s = ({ s with rcv := { s.rcv with term := true, act := false } }, none) := by
  simp [rcvAccept, hend, hnone]

/-- R157: not the next expected number. -/
theorem rcvAccept_unexpected (hdata : p.payload ≠ ctlEnd) (hseq : (p.seq.toNat : Int) ≠ s.rcv.lastRecvd + 1) :
    rcvAccept p s = (s, none) := by
  simp [rcvAccept, hdata, hseq]

/-- R159: the payload does not fit ABUF. -/
theorem rcvAccept_oversized (hdata : p.payload ≠ ctlEnd) (hseq : (p.seq.toNat : Int) = s.rcv.lastRecvd + 1)
    (hbig : s.params.abufCap < s.rcv.alen + p.payload.length) :
    rcvAccept p s = ({ s with stat := { s.stat with rOvf := true } }, none) := by
  simp [rcvAccept, hdata, hseq, hbig]

/-- R156: in order; the ACK carries the packet's own number, which is the new `last_recvd`. -/
theorem rcvAccept_inOrder (hdata : p.payload ≠ ctlEnd) (hseq : (p.seq.toNat : Int) = s.rcv.lastRecvd + 1)
    (hfit : s.rcv.alen + p.payload.length ≤ s.params.abufCap) :
    rcvAccept p s = (rcvAppend p.payload s, some (encodePkt p.seq ctlAck s.cfg.csen)) := by
  have hfield : seqField (s.rcv.lastRecvd + 1) = p.seq := by
    rw [← hseq, seqField_nat p.seq.isLt, BitVec.ofNat_toNat, BitVec.setWidth_eq]
  simp [rcvAccept, hdata, hseq, hfit.not_gt, hfield]

end Accepting

/-! ## The bytes of ABUF -/

section Appending
variable (payload : List Byte) (s : State)

theorem rcvAppend_abuf_outside {a : Nat} (h : a < s.rcv.alen ∨ s.rcv.alen + payload.length ≤ a) :
    (rcvAppend payload s).byteAt .abuf a = s.byteAt .abuf a := by
  have hout : ¬(s.rcv.alen ≤ a ∧ a < s.rcv.alen + payload.length) := by omega
  simp only [State.byteAt_abuf, rcvAppend, Mem.read?_writeBytes, if_neg hout]

/-- The appended payload reads back from where R_ALEN stood. -/
theorem rcvAppend_abuf_memRead : (rcvAppend payload s).memRead .abuf s.rcv.alen payload.length = payload :=
  State.memRead_eq fun i hi => by simp [State.byteAt_abuf, rcvAppend, Mem.read?_writeBytes, hi]

end Appending

/-! ## `RCV.STEP` -/

/-- `s` once `RCV.STEP` took the valid datagram `d` off RXQ, which leaves `q`: R_PEER is its source (43_receiver_arq.md
R153, R160). -/
def State.heard (s : State) (d : Datagram) (q : List Datagram) : State :=
  { s with rxq := q, rcv := { s.rcv with peer := d.tag } }

/-- The state after a `RCV.STEP` whose iteration left `u` and gave `o` for `dst` (43_receiver_arq.md R153,
30_encoding.md R83). -/
def State.rcvDone (u : State) (dst : AddrTag) (o : Option (List Byte)) : State :=
  (u.afterSend dst o).done (stepResult o.isSome true u.rcv.term (rcvStateOf u.rcv).code)

section ReceiverStep
variable {s u : State} {dst : AddrTag} {o : Option (List Byte)} {d : Datagram} {q : List Datagram} {p : Packet}

theorem rcvFinish_fits (h : ∀ bs ∈ o, bs.length ≤ u.params.rbufCap) :
    rcvFinish dst (u, o) = .next (u.rcvDone dst o) := by
  cases o with
  | none => rfl
  | some bs =>
    simp only [rcvFinish, emitFramed_fits (h bs rfl), withMem_ok]
    rfl

/-- The result word of a step that leaves the session receiving (30_encoding.md R83, 10_state.md R40). -/
theorem State.rcvDone_receiving (hact : u.rcv.act = true) (hterm : u.rcv.term = false) :
    u.rcvDone dst o = (u.afterSend dst o).done (BitVec.ofNat 64 (o.isSome.toNat + 0x102)) := by
  simp [State.rcvDone, stepResult, rcvStateOf, RcvState.code, hact, hterm]

/-- The result word of a step that ends the session (30_encoding.md R83, 10_state.md R40). -/
theorem State.rcvDone_terminated (hact : u.rcv.act = false) (hterm : u.rcv.term = true) :
    u.rcvDone dst o = (u.afterSend dst o).done (BitVec.ofNat 64 (o.isSome.toNat + 0x206)) := by
  simp [State.rcvDone, stepResult, rcvStateOf, RcvState.code, hact, hterm]

/-- A control payload of at most 10 bytes, as the receiver's are, fits TXP (41_framer.md R119). -/
theorem ctlPacket_fits (hroom : s.frameTooBig = false) (seq : Word) {c : List Byte} (hc : c.length ≤ 10) :
    ∀ bs ∈ some (encodePkt seq c s.cfg.csen), bs.length ≤ s.params.rbufCap := by
  have := State.frameTooBig_false.mp hroom
  rintro _ ⟨⟩
  rw [encodePkt_length]
  omega

/-- `RCV.STEP` takes the head of the queue. -/
theorem exec_rcvStep_cons (hact : s.rcv.act = true) (hq : s.rxq = d :: q) :
    exec .rcvStep s = rcvFinish d.tag (rcvIter d { s with rxq := q }) := by
  change execRcvStep s = _
  simp only [execRcvStep, if_pos hact, hq, State.popRx, List.tail_cons]

/-- R154: a datagram that is no valid packet. -/
theorem exec_rcvStep_invalid (hact : s.rcv.act = true) (hterm : s.rcv.term = false) (hq : s.rxq = d :: q)
    (hbad : (decodePkt d.bytes s.cfg.csen).status ≠ .ok) :
    exec .rcvStep s = .next (({ s with rxq := q } : State).done 0x102) := by
  have hiter : rcvIter d { s with rxq := q } = ({ s with rxq := q }, none) := if_neg hbad
  rw [exec_rcvStep_cons hact hq, hiter, rcvFinish_fits (o := none) nofun]
  exact congrArg _ (State.rcvDone_receiving hact hterm)

/-! ### `RCV.STEP` on a valid packet -/

section Valid
variable (hact : s.rcv.act = true) (hq : s.rxq = d :: q) (hp : p = decodePkt d.bytes s.cfg.csen)
  (hok : p.status = .ok) (haccept : rcvAccept p (s.heard d q) = (u, o))
  (hfits : ∀ bs ∈ o, bs.length ≤ u.params.rbufCap)
include hact hq hp hok haccept hfits

/-- The step completes with what `rcvAccept` gives, if the answer fits TXP. -/
theorem exec_rcvStep_valid : exec .rcvStep s = .next (u.rcvDone d.tag o) := by
  subst hp
  have hiter : rcvIter d { s with rxq := q } = rcvAccept (decodePkt d.bytes s.cfg.csen) (s.heard d q) := if_pos hok
  rw [exec_rcvStep_cons hact hq, hiter, haccept, rcvFinish_fits hfits]

theorem exec_rcvStep_goesOn (hgoes : u.rcv.act = true) (hterm : u.rcv.term = false) :
    exec .rcvStep s = .next ((u.afterSend d.tag o).done (BitVec.ofNat 64 (o.isSome.toNat + 0x102))) := by
  rw [exec_rcvStep_valid hact hq hp hok haccept hfits, State.rcvDone_receiving hgoes hterm]

theorem exec_rcvStep_ends (hends : u.rcv.act = false) (hterm : u.rcv.term = true) :
    exec .rcvStep s = .next ((u.afterSend d.tag o).done (BitVec.ofNat 64 (o.isSome.toNat + 0x206))) := by
  rw [exec_rcvStep_valid hact hq hp hok haccept hfits, State.rcvDone_terminated hends hterm]

end Valid

end ReceiverStep

/-- Settles O51. -/
theorem rcvStepAppendsInOrder : Obligations.RcvStepAppendsInOrder := by
  intro s d q p hact hterm hroom hq hp hok hdata hseq hfit
  have haccept := rcvAccept_inOrder (s := s.heard d q) hdata hseq hfit
  have hfits := ctlPacket_fits hroom p.seq (c := ctlAck) (by decide)
  exact ⟨_, exec_rcvStep_goesOn hact hq hp hok haccept hfits hact hterm, State.framedInto_writeBytes rfl rfl rfl,
    rfl, rfl, rcvAppend_abuf_memRead p.payload s, fun _ => rcvAppend_abuf_outside p.payload s, rfl⟩

/-- Settles O52. -/
theorem rcvStepDiscardsTheRest : Obligations.RcvStepDiscardsTheRest := by
  intro s d q p hact hterm hq hp
  refine ⟨fun hbad => ?_, fun hok hdata => ⟨fun hseq => ?_, fun hseq hbig => ?_⟩⟩
  · exact exec_rcvStep_invalid hact hterm hq (hp ▸ hbad)
  · have haccept := rcvAccept_unexpected (s := s.heard d q) hdata hseq
    exact exec_rcvStep_goesOn hact hq hp hok haccept nofun hact hterm
  · have haccept := rcvAccept_oversized (s := s.heard d q) hdata hseq hbig
    exact exec_rcvStep_goesOn hact hq hp hok haccept nofun hact hterm

/-- Settles O53. -/
theorem rcvStepEndsOnTeardown : Obligations.RcvStepEndsOnTeardown := by
  intro s d q p hact hroom hq hp hok hend
  refine ⟨fun hnone => ?_, fun n hn hlt => ?_⟩
  · have haccept := rcvAccept_end_silent (s := s.heard d q) hend hnone
    exact exec_rcvStep_ends hact hq hp hok haccept nofun rfl rfl
  · have haccept := rcvAccept_end_replies (s := s.heard d q) hend hn hlt
    have hfits := ctlPacket_fits hroom (BitVec.ofNat 32 n) (c := ctlEndAck) (by decide)
    exact ⟨_, exec_rcvStep_ends hact hq hp hok haccept hfits rfl rfl, State.framedInto_writeBytes rfl rfl rfl,
      rfl, rfl, rfl⟩

end Sys2Proof.Machine

/-! # The system operations: register write and read-back, one-byte buffer access -/
namespace Sys2Proof.Machine

/-! ## The register map as a numbering -/

/-- The number of each register, the inverse of `regOf` (10_state.md R28). -/
def regNumber : Reg → BitVec 8
  | .ctrl => 0x00 | .psize => 0x01 | .window => 0x02 | .rto => 0x03 | .kill => 0x04 | .dest => 0x05
  | .seq => 0x06 | .plen => 0x07 | .txlen => 0x08
  | .status => 0x10 | .errcode => 0x11 | .errcmd => 0x12 | .rxcnt => 0x13 | .rxlen => 0x14 | .rxsrc => 0x15
  | .dStat => 0x16 | .dSeq => 0x17 | .dPlen => 0x18 | .dPoff => 0x19 | .dCsum => 0x1A
  | .csAcc => 0x1C | .csOdd => 0x1D | .time => 0x1E
  | .sState => 0x20 | .sWstart => 0x21 | .sTosend => 0x22 | .sLastack => 0x23 | .sLastpkt => 0x24
  | .sWsize => 0x25 | .sLen => 0x26 | .sRtxt0 => 0x27 | .sTdt0 => 0x28
  | .rState => 0x30 | .rLastrecvd => 0x31 | .rAlen => 0x32 | .rPeer => 0x33

section RegisterMap
variable {reg : BitVec 8} {r : Reg}

theorem regOf_regNumber (r : Reg) : regOf (regNumber r) = some r := by
  cases r <;> rfl

/-- A register has one number only, so that two numbers of the map name two registers. -/
theorem regOf_eq_some_iff : regOf reg = some r ↔ reg = regNumber r := by
  refine ⟨fun h => ?_, fun h => h ▸ regOf_regNumber r⟩
  unfold regOf at h
  split at h <;> cases h
  all_goals exact BitVec.eq_of_toNat_eq ‹_›

/-- The numbers the register map leaves out (10_state.md R28). -/
theorem regOf_eq_none_iff :
    regOf reg = none ↔
      (0x09 ≤ reg.toNat ∧ reg.toNat ≤ 0x0F) ∨ reg.toNat = 0x1B ∨ reg.toNat = 0x1F ∨
        (0x29 ≤ reg.toNat ∧ reg.toNat ≤ 0x2F) ∨ 0x34 ≤ reg.toNat := by
  obtain ⟨hout, hnone⟩ | ⟨hin, r, hsome, -⟩ | ⟨hin, r, hsome, -⟩ | ⟨hin, r, hsome, -⟩ | ⟨hin, hsome⟩ :=
    regOf_cases (reg := reg) rfl
  · exact iff_of_true hnone hout
  all_goals exact iff_of_false (by simp [hsome]) (by omega)

end RegisterMap

/-! ## `CFG.RD` and `CFG.WR` -/

section Registers
variable {s : State} {r r' : Reg} {v : Dword}

/-- `CFG.RD` of a number outside the map (60_exceptions.md R173). -/
theorem exec_cfgRd_none {reg : BitVec 8} (h : regOf reg = none) :
    exec (.cfgRd reg) s = .next (s.faulted 0x81 (encode (.cfgRd reg))) := by
  change execCfgRd reg s = _
  simp only [execCfgRd, h]
  rfl

/-- Settles O24: the register map is total on its numbers, and `CFG.RD` follows it. -/
theorem cfgRdReadsOrRefuses : Obligations.CfgRdReadsOrRefuses := fun _ _ =>
  ⟨fun _ => exec_cfgRd, regOf_eq_none_iff, exec_cfgRd_none⟩

/-- No register reads the command port (assumption 8). -/
@[simp] theorem readReg_done (s : State) (rd : Dword) (r : Reg) : readReg (s.done rd) r = readReg s r := by
  cases r <;> rfl

/-- A value that fits a register's width survives the write and the zero-extended read-out (44_system.md R167). -/
theorem setWidth_setWidth_of_toNat_lt {w : Nat} (h : v.toNat < 2 ^ w) : (v.setWidth w).setWidth 64 = v := by
  apply BitVec.eq_of_toNat_eq
  rw [BitVec.toNat_setWidth, BitVec.toNat_setWidth, Nat.mod_eq_of_lt h, Nat.mod_eq_of_lt v.isLt]

/-- An RW register reads as the legal value written to it (44_system.md R166). -/
theorem readReg_writeReg_same (hrw : accessOf r = .rw) (hval : legalValue s.params r v = true) :
    readReg (writeReg s r v) r = v := by
  cases r
  case ctrl | window | rto | kill | dest | seq => exact setWidth_setWidth_of_toNat_lt (of_decide_eq_true hval)
  case psize | plen | txlen => exact (BitVec.ofNat_toNat 64 v).trans (BitVec.setWidth_eq v)
  all_goals cases hrw

/-- A write to an RW register shows in no other register (10_state.md R29). -/
theorem readReg_writeReg_other (hrw : accessOf r = .rw) (hne : r' ≠ r) :
    readReg (writeReg s r v) r' = readReg s r' := by
  cases r
  case ctrl | psize | window | rto | kill | dest | seq | plen | txlen =>
    cases r' <;> try contradiction
    all_goals rfl
  all_goals cases hrw

/-- The RW registers are the configuration and the framer operands (10_state.md R22, R29). -/
theorem writeReg_frame (hrw : accessOf r = .rw) :
    writeReg s r v = { s with cfg := (writeReg s r v).cfg, fr := (writeReg s r v).fr } := by
  cases r
  case ctrl | psize | window | rto | kill | dest | seq | plen | txlen => rfl
  all_goals cases hrw

/-- The values inside each writable register's range (44_system.md R166). -/
theorem legalValue_eq_true {p : Config.Params} (hctrl : regNumber r = 0 → v.toNat ≤ 7)
    (hpsize : regNumber r = 1 → 1 ≤ v.toNat ∧ v.toNat ≤ p.rbufCap - 4)
    (hword : regNumber r = 2 ∨ regNumber r = 3 ∨ regNumber r = 4 ∨ regNumber r = 6 → v.toNat ≤ 4294967295)
    (hdest : regNumber r = 5 → v.toNat ≤ 281474976710655)
    (hlen : regNumber r = 7 ∨ regNumber r = 8 → v.toNat ≤ p.rbufCap) : legalValue p r v = true := by
  cases r
  case ctrl => exact decide_eq_true (Nat.lt_succ_of_le (hctrl rfl))
  case psize => exact decide_eq_true (hpsize rfl)
  case window | rto | kill | seq => exact decide_eq_true (Nat.lt_succ_of_le (hword (by decide)))
  case dest => exact decide_eq_true (Nat.lt_succ_of_le (hdest rfl))
  case plen | txlen => exact decide_eq_true (hlen (by decide))
  all_goals rfl

/-- The registers 0x00 to 0x08 are the RW ones, and the lock covers those up to 0x05 (10_state.md R28, R30). -/
theorem regOf_writable {reg : BitVec 8} (h : reg.toNat ≤ 8) :
    ∃ r, regOf reg = some r ∧ accessOf r = .rw ∧ (lockedReg r = true → reg.toNat ≤ 5) := by
  obtain ⟨h', -⟩ | ⟨h', -⟩ | ⟨hle, r, hreg, hrw, -⟩ | ⟨-, r, hreg, hrw, hfree⟩ | ⟨h', -⟩ := regOf_cases (reg := reg) rfl
  case inr.inr.inl => exact ⟨r, hreg, hrw, fun _ => hle⟩
  case inr.inr.inr.inl => exact ⟨r, hreg, hrw, fun hlock => absurd (hlock.symm.trans hfree) nofun⟩
  all_goals omega

/-- Settles O21: the write passes the four checks, and its register's field is the only one that changes. -/
theorem cfgWrIsReadBack : Obligations.CfgWrIsReadBack := by
  rintro s reg _ hle rfl hidle hctrl hpsize hword hdest hlen
  obtain ⟨r, hreg, hrw, hlock⟩ := regOf_writable hle
  obtain rfl := regOf_eq_some_iff.mp hreg
  have hval : legalValue s.params r s.port.wdata = true := legalValue_eq_true hctrl hpsize hword hdest hlen
  have hfree : (lockedReg r && s.sessionActive) = false := by
    cases hl : lockedReg r
    · rfl
    · exact s.sessionActive_eq_false.mpr (hidle (hlock hl))
  refine ⟨_, exec_cfgWr_ok hreg (by simp [hrw]) hfree hval, ?_, fun other r' hne hother => ?_, ?_⟩
  · exact exec_cfgRd_eq hreg ((readReg_done _ _ _).trans (readReg_writeReg_same hrw hval))
  · have hdiff : r' ≠ r := fun heq => hne (heq ▸ regOf_eq_some_iff.mp hother)
    exact (readReg_done _ _ _).trans (readReg_writeReg_other hrw hdiff)
  · exact congrArg (State.done · 0) (writeReg_frame hrw)

end Registers

/-! ## `BUF.WRB` and `BUF.RDB` -/

/-- `s` after one byte of PLD or TXP was written; the other spaces are not `BUF.WRB`'s (44_system.md R168). -/
def State.storeByte (s : State) (sp : Space) (a : Nat) (b : Byte) : State :=
  match sp with
  | .pld => { s with pld := Mem.write s.pld a b }
  | .txp => { s with txp := Mem.write s.txp a b }
  | _ => s

section Buffers
variable {s : State} {buf : BitVec 4} {addr : BitVec 12} {sp : Space}

theorem State.storeByte_frame (s : State) (sp : Space) (a : Nat) (b : Byte) :
    s.storeByte sp a b = { s with pld := (s.storeByte sp a b).pld, txp := (s.storeByte sp a b).txp } := by
  cases sp <;> rfl

@[simp] theorem State.byteAt_done (s : State) (rd : Dword) (sp : Space) (a : Nat) :
    (s.done rd).byteAt sp a = s.byteAt sp a := by
  cases sp <;> rfl

/-- What a byte reads as after the write of one. -/
theorem State.byteAt_storeByte (hsp : sp = .pld ∨ sp = .txp) (a : Nat) (b : Byte) (sp' : Space) (a' : Nat) :
    (s.storeByte sp a b).byteAt sp' a' = if sp' = sp ∧ a' = a then b else s.byteAt sp' a' := by
  have hread (m : Mem) (u : Byte) :
      (Mem.read? (Mem.write m a b) a').getD u = if a' = a then b else (Mem.read? m a').getD u := by
    rw [Mem.read?_write, apply_ite (Option.getD · u), Option.getD_some]
    simp only [eq_comm]
  obtain rfl | rfl := hsp
  case inl =>
    cases sp'
    case pld => simpa [State.byteAt_pld, State.storeByte] using hread s.pld _
    all_goals rfl
  case inr =>
    cases sp'
    case txp => simpa [State.byteAt_txp, State.storeByte] using hread s.txp _
    all_goals rfl

/-- `BUF.WRB` inside PLD or TXP (44_system.md R168). -/
theorem exec_bufWrb {b : Byte} (hbuf : bufOf buf = some sp) (hsp : sp = .pld ∨ sp = .txp)
    (haddr : addr.toNat < s.params.rbufCap) :
    exec (.bufWrb buf addr b) s = .next ((s.storeByte sp addr.toNat b).done 0) := by
  change execBufWrb buf addr b s = _
  obtain rfl | rfl := hsp
  all_goals
    simp only [execBufWrb, hbuf]
    exact if_neg haddr.not_ge

/-- `BUF.RDB` inside PLD or TXP (44_system.md R169). -/
theorem exec_bufRdb (hbuf : bufOf buf = some sp) (hsp : sp = .pld ∨ sp = .txp)
    (haddr : addr.toNat < s.params.rbufCap) :
    exec (.bufRdb buf addr) s = .next (s.done ((s.byteAt sp addr.toNat).setWidth 64)) := by
  change execBufRdb buf addr s = _
  obtain rfl | rfl := hsp
  all_goals
    simp only [execBufRdb, hbuf]
    exact if_neg haddr.not_ge

/-- `BUF.RDB` inside the head datagram (44_system.md R169). -/
theorem exec_bufRdb_rxp {b : Byte} (hbuf : bufOf buf = some .rxp) (hbyte : s.rxpBytes[addr.toNat]? = some b) :
    exec (.bufRdb buf addr) s = .next (s.done (b.setWidth 64)) := by
  obtain ⟨hlt, -⟩ := List.getElem?_eq_some_iff.mp hbyte
  have hread : s.byteAt .rxp addr.toNat = b := by simp [State.byteAt, List.getD_eq_getElem?_getD, hbyte]
  change execBufRdb buf addr s = _
  simp only [execBufRdb, hbuf, hread]
  exact if_neg hlt.not_ge

/-- Settles O28: the byte is stored in the buffer the id selects, and a read finds it there. -/
theorem bufWrbWritesOneByte : Obligations.BufWrbWritesOneByte := by
  intro s buf addr b sp hbuf haddr
  obtain ⟨hof, hsp⟩ : bufOf buf = some sp ∧ (sp = .pld ∨ sp = .txp) := by
    obtain ⟨rfl, rfl⟩ | ⟨rfl, rfl⟩ := hbuf
    · exact ⟨rfl, .inl rfl⟩
    · exact ⟨rfl, .inr rfl⟩
  have hbyte : (s.storeByte sp addr.toNat b).byteAt sp addr.toNat = b := by
    rw [State.byteAt_storeByte hsp, if_pos ⟨rfl, rfl⟩]
  have hframe := s.storeByte_frame sp addr.toNat b
  refine ⟨_, exec_bufWrb hof hsp haddr, ?_, ?_, fun sp' a hne => ?_, congrArg (State.done · 0) hframe⟩
  · rw [exec_bufRdb hof hsp (by rw [hframe]; exact haddr), State.byteAt_done, hbyte]
  · rw [State.byteAt_done, hbyte]
  · rw [State.byteAt_done, State.byteAt_storeByte hsp, if_neg (by tauto)]

/-- Settles O29: the three buffers, each read inside its bounds. -/
theorem bufRdbReadsOneByte : Obligations.BufRdbReadsOneByte := fun s addr =>
  ⟨fun haddr => ⟨exec_bufRdb rfl (.inl rfl) haddr, exec_bufRdb rfl (.inr rfl) haddr⟩,
    fun d q b hq hbyte => exec_bufRdb_rxp rfl (by rw [State.rxpBytes, hq]; exact hbyte)⟩

end Buffers

/-! ## `NOP` and `SYS.RST` -/

theorem exec_nop (s : State) : exec .nop s = .next (s.done 0) := rfl

theorem exec_sysRst (s : State) : exec .sysRst s = .next (s.softReset.done 0) := rfl

/-- Settles O20: `State.softReset` is the reset values of 10_state.md R43, written out. -/
theorem nopAndSysRst : Obligations.NopAndSysRst := fun s =>
  ⟨exec_nop s, exec_sysRst s⟩

end Sys2Proof.Machine

/-! # Exceptions: faults, EMPTY, and steps that cannot stop -/
namespace Sys2Proof.Machine

/-! ## Buffer operands -/

section BufferOperands
variable {s : State} {buf : BitVec 4} {addr : BitVec 12} {b : Byte} {sp : Space}

/-- The buffer a buffer id selects (30_encoding.md R80). -/
theorem bufOf_cases (buf : BitVec 4) :
    (buf.toNat = 0 ∧ bufOf buf = some .pld) ∨ (buf.toNat = 1 ∧ bufOf buf = some .txp) ∨
      (buf.toNat = 2 ∧ bufOf buf = some .rxp) ∨ (3 ≤ buf.toNat ∧ bufOf buf = none) := by
  unfold bufOf
  split
  · exact .inl ⟨by assumption, rfl⟩
  · exact .inr (.inl ⟨by assumption, rfl⟩)
  · exact .inr (.inr (.inl ⟨by assumption, rfl⟩))
  · exact .inr (.inr (.inr ⟨by grind, rfl⟩))

theorem bufOf_of_lt_two (h : buf.toNat < 2) : ∃ sp, bufOf buf = some sp ∧ (sp = .pld ∨ sp = .txp) := by
  rcases bufOf_cases buf with ⟨-, hsp⟩ | ⟨-, hsp⟩ | ⟨hn, -⟩ | ⟨hn, -⟩
  · exact ⟨_, hsp, .inl rfl⟩
  · exact ⟨_, hsp, .inr rfl⟩
  all_goals omega

theorem bufOf_of_three_le (h : 3 ≤ buf.toNat) : bufOf buf = none := by
  rcases bufOf_cases buf with ⟨hn, -⟩ | ⟨hn, -⟩ | ⟨hn, -⟩ | ⟨-, hnone⟩
  case inr.inr.inr => exact hnone
  all_goals omega

/-- R176: `BUF.WRB` beyond PLD or TXP. -/
theorem exec_bufWrb_badAddr (hbuf : bufOf buf = some sp) (hsp : sp = .pld ∨ sp = .txp)
    (haddr : s.params.rbufCap ≤ addr.toNat) :
    exec (.bufWrb buf addr b) s = .next (s.faulted 0x84 (encode (.bufWrb buf addr b))) := by
  change execBufWrb buf addr b s = _
  obtain rfl | rfl := hsp
  all_goals
    simp only [execBufWrb, hbuf]
    exact if_pos haddr

/-- R176: `BUF.RDB` beyond PLD or TXP. -/
theorem exec_bufRdb_badAddr (hbuf : bufOf buf = some sp) (hsp : sp = .pld ∨ sp = .txp)
    (haddr : s.params.rbufCap ≤ addr.toNat) :
    exec (.bufRdb buf addr) s = .next (s.faulted 0x84 (encode (.bufRdb buf addr))) := by
  change execBufRdb buf addr s = _
  obtain rfl | rfl := hsp
  all_goals
    simp only [execBufRdb, hbuf]
    exact if_pos haddr

/-- R176: `BUF.RDB RXP` beyond the head datagram. -/
theorem exec_bufRdb_rxp_badAddr (hbuf : bufOf buf = some .rxp) (haddr : s.rxpBytes.length ≤ addr.toNat) :
    exec (.bufRdb buf addr) s = .next (s.faulted 0x84 (encode (.bufRdb buf addr))) := by
  change execBufRdb buf addr s = _
  simp only [execBufRdb, hbuf]
  exact if_pos haddr

/-- R81 (c): `BUF.WRB` writes PLD and TXP only. -/
theorem exec_bufWrb_illegal (h : 2 ≤ buf.toNat) :
    exec (.bufWrb buf addr b) s = .next (s.faulted 0x80 (encode (.bufWrb buf addr b))) := by
  change execBufWrb buf addr b s = _
  rcases bufOf_cases buf with ⟨hn, -⟩ | ⟨hn, -⟩ | ⟨-, hsp⟩ | ⟨-, hnone⟩
  · omega
  · omega
  · simp only [execBufWrb, hsp]
    rfl
  · simp only [execBufWrb, hnone]
    rfl

/-- R81 (d): `BUF.RDB` of a reserved id. -/
theorem exec_bufRdb_illegal (h : bufOf buf = none) :
    exec (.bufRdb buf addr) s = .next (s.faulted 0x80 (encode (.bufRdb buf addr))) := by
  change execBufRdb buf addr s = _
  simp only [execBufRdb, h]
  rfl

/-- R81 (d): `CS.BUF` of a reserved id. -/
theorem exec_csBuf_illegal (h : bufOf buf = none) :
    exec (.csBuf buf) s = .next (s.faulted 0x80 (encode (.csBuf buf))) := by
  change execCsBuf buf s = _
  simp only [execCsBuf, h]
  rfl

/-- R81 (e): `FR.DEC` reads TXP and RXP only. -/
theorem exec_frDec_illegal (h : buf.toNat = 0 ∨ 3 ≤ buf.toNat) :
    exec (.frDec buf) s = .next (s.faulted 0x80 (encode (.frDec buf))) := by
  change execFrDec buf s = _
  rcases bufOf_cases buf with ⟨-, hsp⟩ | ⟨hn, -⟩ | ⟨hn, -⟩ | ⟨-, hnone⟩
  · simp only [execFrDec, hsp]
    rfl
  · omega
  · omega
  · simp only [execFrDec, hnone]
    rfl

/-- The bytes of RXP end at or before `n` exactly when the head datagram, if there is one, does. -/
theorem State.rxpBytes_length_le_iff {n : Nat} :
    s.rxpBytes.length ≤ n ↔ ∀ d ∈ s.rxq.head?, d.bytes.length ≤ n := by
  rw [State.rxpBytes_eq_head]
  cases s.rxq.head? <;> simp

/-- Settles O30: the ids and addresses each operation refuses, by the buffer the id selects. -/
theorem bufferOperandFaults : Obligations.BufferOperandFaults := by
  refine fun s buf addr b => ⟨fun hbuf haddr => ?_, fun hlen => ?_, exec_bufWrb_illegal,
    fun h => exec_bufRdb_illegal (bufOf_of_three_le h), fun h => exec_csBuf_illegal (bufOf_of_three_le h),
    exec_frDec_illegal⟩
  · obtain ⟨sp, hof, hsp⟩ := bufOf_of_lt_two hbuf
    exact ⟨exec_bufWrb_badAddr hof hsp haddr, exec_bufRdb_badAddr hof hsp haddr⟩
  · exact exec_bufRdb_rxp_badAddr rfl (State.rxpBytes_length_le_iff.mpr hlen)

end BufferOperands

/-! ## EMPTY -/

section EmptyReturns
variable {s t : State}

theorem exec_netRxpop_empty (hq : s.rxq = []) : exec .netRxpop s = .next s.foundEmpty := by
  change execNetRxpop s = _
  simp only [execNetRxpop, hq, State.complete_empty]

theorem exec_frDec_rxp_empty (hq : s.rxq = []) : exec (.frDec 2) s = .next s.foundEmpty := by
  change execFrDec 2 s = _
  have hsp : bufOf 2 = some .rxp := rfl
  simp only [execFrDec, hsp, hq, State.complete_empty]

theorem exec_rcvStep_empty (hact : s.rcv.act = true) (hq : s.rxq = []) : exec .rcvStep s = .next s.foundEmpty := by
  change execRcvStep s = _
  simp only [execRcvStep, if_pos hact, hq, State.complete_empty]

theorem exec_rcvStep_inactive (hact : s.rcv.act = false) :
    exec .rcvStep s = .next (s.faulted 0x85 (encode .rcvStep)) := by
  change execRcvStep s = _
  rw [execRcvStep, if_neg (by simp [hact])]
  rfl

/-- `SND.STEP` returns BAD_STATE without a session and OK with one (42_sender_arq.md R132). -/
theorem exec_sndStep_status (h : exec .sndStep s = .next t) : t.port.status = if s.snd.act then 0x00 else 0x85 := by
  cases hact : s.snd.act with
  | false =>
    rw [exec_sndStep_inactive hact] at h
    cases h
    rfl
  | true =>
    obtain ⟨rxc, hstep⟩ := execSndStep_active hact
    obtain ⟨-, rfl⟩ := sndFinish_next_iff.mp (hstep.symm.trans h)
    rfl

/-- Settles O40. -/
theorem emptyQueueChangesNothing : Obligations.EmptyQueueChangesNothing := by
  refine fun s => ⟨fun hq => ⟨exec_netRxpop_empty hq, exec_frDec_rxp_empty hq, fun hact => exec_rcvStep_empty hact hq⟩,
    exec_rcvStep_inactive, fun t h => ?_⟩
  rw [exec_sndStep_status h]
  split <;> decide

end EmptyReturns

/-! ## Faults are precise -/

theorem Status.code_le (f : Status) : f.code.toNat ≤ 0x86 := by
  cases f <;> decide

/-- Settles O57: the three ways an operation completes have statuses that tell them apart. -/
theorem faultsArePrecise : Obligations.FaultsArePrecise := by
  intro i s t h
  cases exec_completes h with
  | faulted f hf =>
    refine ⟨.inr (.inr ⟨hf, f.code_le⟩), fun hempty => ?_, fun _ => rfl⟩
    have hcode : f.code = 0x01 := hempty
    rw [hcode] at hf
    exact absurd hf (by decide)
  | foundEmpty =>
    have hstatus : s.foundEmpty.port.status = 0x01 := rfl
    exact ⟨.inr (.inl hstatus), fun _ => rfl, by simp [hstatus]⟩
  | @done u rd he =>
    have hstatus : (u.done rd).port.status = 0x00 := rfl
    exact ⟨.inl hstatus, by simp [hstatus], by simp [hstatus]⟩

/-! ## Operations complete -/

section Completion
variable {s : State} {d : Datagram} {q : List Datagram}

/-- The valid bytes of every space are inside it while PLEN and TXLEN are in their ranges (10_state.md R22). -/
theorem State.bufBytes_ok (hplen : s.fr.plen ≤ s.params.rbufCap) (htxlen : s.fr.txlen ≤ s.params.rbufCap)
    (sp : Space) : ∃ bs, s.bufBytes sp = .ok bs := by
  cases sp with
  | pld => exact ⟨_, State.bufBytes_pld hplen⟩
  | txp => exact ⟨_, State.bufBytes_txp htxlen⟩
  | rxp => exact ⟨_, s.bufBytes_rxp⟩
  | tbuf | abuf => exact ⟨[], rfl⟩

theorem rcvAccept_fits (hroom : s.frameTooBig = false) (p : Packet) :
    ∀ bs ∈ (rcvAccept p s).2, bs.length ≤ (rcvAccept p s).1.params.rbufCap := by
  rcases rcvAccept_cases p s with ⟨-, h⟩ | ⟨-, -, -, h⟩ | ⟨-, -, -, h⟩ | ⟨-, -, h⟩ <;> rw [h]
  · dsimp only
    split
    · exact ctlPacket_fits hroom _ (by decide)
    · exact nofun
  · exact nofun
  · exact ctlPacket_fits hroom _ (by decide)
  · exact nofun

/-- Every packet the receiver answers with fits TXP (41_framer.md R119). -/
theorem rcvIter_fits (hroom : s.frameTooBig = false) (d : Datagram) :
    ∀ bs ∈ (rcvIter d s).2, bs.length ≤ (rcvIter d s).1.params.rbufCap := by
  by_cases hok : (decodePkt d.bytes s.cfg.csen).status = .ok
  · have h : rcvIter d s =
        rcvAccept (decodePkt d.bytes s.cfg.csen) { s with rcv := { s.rcv with peer := d.tag } } := if_pos hok
    rw [h]
    exact rcvAccept_fits (s := { s with rcv := { s.rcv with peer := d.tag } }) hroom _
  · have h : rcvIter d s = (s, none) := if_neg hok
    rw [h]
    exact nofun

/-- `RCV.STEP` on a datagram completes in every active session that START accepted. -/
theorem exec_rcvStep_completes (hact : s.rcv.act = true) (hroom : s.frameTooBig = false) (hq : s.rxq = d :: q) :
    exec .rcvStep s = .next
      ((rcvIter d { s with rxq := q }).1.rcvDone d.tag (rcvIter d { s with rxq := q }).2) :=
  (exec_rcvStep_cons hact hq).trans
    (rcvFinish_fits (u := (rcvIter d { s with rxq := q }).1) (rcvIter_fits (s := { s with rxq := q }) hroom d))

theorem exec_cfgWr_next (reg : BitVec 8) (s : State) : ∃ t, exec (.cfgWr reg) s = .next t := by
  change ∃ t, execCfgWr reg s = .next t
  unfold execCfgWr
  split
  · exact ⟨_, rfl⟩
  · split_ifs <;> exact ⟨_, rfl⟩

theorem exec_cfgRd_next (reg : BitVec 8) (s : State) : ∃ t, exec (.cfgRd reg) s = .next t := by
  cases hreg : regOf reg with
  | none => exact ⟨_, exec_cfgRd_none hreg⟩
  | some r => exact ⟨_, exec_cfgRd hreg⟩

theorem exec_bufWrb_next (buf : BitVec 4) (addr : BitVec 12) (b : Byte) (s : State) :
    ∃ t, exec (.bufWrb buf addr b) s = .next t := by
  rcases Nat.lt_or_ge buf.toNat 2 with hbuf | hbuf
  · obtain ⟨sp, hof, hsp⟩ := bufOf_of_lt_two hbuf
    rcases Nat.lt_or_ge addr.toNat s.params.rbufCap with haddr | haddr
    · exact ⟨_, exec_bufWrb hof hsp haddr⟩
    · exact ⟨_, exec_bufWrb_badAddr hof hsp haddr⟩
  · exact ⟨_, exec_bufWrb_illegal hbuf⟩

theorem exec_bufRdb_next (buf : BitVec 4) (addr : BitVec 12) (s : State) :
    ∃ t, exec (.bufRdb buf addr) s = .next t := by
  change ∃ t, execBufRdb buf addr s = .next t
  unfold execBufRdb
  split
  · exact ⟨_, rfl⟩
  all_goals split_ifs <;> exact ⟨_, rfl⟩

theorem exec_netRxpop_next (s : State) : ∃ t, exec .netRxpop s = .next t := by
  cases hq : s.rxq with
  | nil => exact ⟨_, exec_netRxpop_empty hq⟩
  | cons d q => exact ⟨_, exec_netRxpop hq⟩

theorem exec_sndStart_next (s : State) : ∃ t, exec .sndStart s = .next t := by
  cases hact : s.sessionActive with
  | true => exact ⟨_, exec_sndStart_badState hact⟩
  | false =>
    cases hbad : sndConfigBad s with
    | true => exact ⟨_, exec_sndStart_cfgRange hact hbad⟩
    | false => exact ⟨_, exec_sndStart_creates hact hbad⟩

theorem exec_rcvStart_next (s : State) : ∃ t, exec .rcvStart s = .next t := by
  cases hact : s.sessionActive with
  | true => exact ⟨_, exec_rcvStart_badState hact⟩
  | false =>
    cases hbig : s.frameTooBig with
    | true => exact ⟨_, exec_rcvStart_cfgRange hact hbig⟩
    | false => exact ⟨_, exec_rcvStart_creates hact hbig⟩

theorem exec_frEnc_next (s : State) : ∃ t, exec .frEnc s = .next t := by
  rcases Nat.lt_or_ge s.params.rbufCap (hdr s.cfg.csen + s.fr.plen) with hbig | hfits
  · exact ⟨_, exec_frEnc_oversize hbig⟩
  · exact ⟨_, exec_frEnc_fits hfits⟩

theorem exec_frDec_next (htxlen : s.fr.txlen ≤ s.params.rbufCap) (buf : BitVec 4) :
    ∃ t, exec (.frDec buf) s = .next t := by
  change ∃ t, execFrDec buf s = .next t
  unfold execFrDec
  split
  · rw [State.bufBytes_txp htxlen, withMem_ok]
    exact ⟨_, rfl⟩
  · split <;> exact ⟨_, rfl⟩
  · exact ⟨_, rfl⟩

theorem exec_csBuf_next (hplen : s.fr.plen ≤ s.params.rbufCap) (htxlen : s.fr.txlen ≤ s.params.rbufCap)
    (buf : BitVec 4) : ∃ t, exec (.csBuf buf) s = .next t := by
  cases hof : bufOf buf with
  | none => exact ⟨_, exec_csBuf_illegal hof⟩
  | some sp =>
    obtain ⟨bs, hbs⟩ := State.bufBytes_ok hplen htxlen sp
    exact ⟨_, exec_csBuf hof hbs⟩

theorem exec_sndStep_next (hroom : s.snd.act = true → s.frameTooBig = false) : ∃ t, exec .sndStep s = .next t := by
  cases hact : s.snd.act with
  | false => exact ⟨_, exec_sndStep_inactive hact⟩
  | true =>
    obtain ⟨rxc, h⟩ := exec_sndStep_completes hact (hroom hact)
    exact ⟨_, h⟩

theorem exec_rcvStep_next (hroom : s.rcv.act = true → s.frameTooBig = false) : ∃ t, exec .rcvStep s = .next t := by
  cases hact : s.rcv.act with
  | false => exact ⟨_, exec_rcvStep_inactive hact⟩
  | true =>
    cases hq : s.rxq with
    | nil => exact ⟨_, exec_rcvStep_empty hact hq⟩
    | cons d q => exact ⟨_, exec_rcvStep_completes hact (hroom hact) hq⟩

/-- An operation stops nowhere while PLEN and TXLEN are in their ranges and the configuration of an active session has
room for its packets (60_exceptions.md R178). -/
theorem exec_next_of_fits (hplen : s.fr.plen ≤ s.params.rbufCap) (htxlen : s.fr.txlen ≤ s.params.rbufCap)
    (hroom : s.sessionActive = true → s.frameTooBig = false) (i : Instr) : ∃ t, exec i s = .next t := by
  cases i with
  | nop | sysRst | csClr | csPutb | csPuth | csGet | csVfy => exact ⟨_, rfl⟩
  | cfgWr reg => exact exec_cfgWr_next reg s
  | cfgRd reg => exact exec_cfgRd_next reg s
  | bufWrb buf addr b => exact exec_bufWrb_next buf addr b s
  | bufRdb buf addr => exact exec_bufRdb_next buf addr s
  | csBuf buf => exact exec_csBuf_next hplen htxlen buf
  | frEnc => exact exec_frEnc_next s
  | frDec buf => exact exec_frDec_next htxlen buf
  | netTx => exact ⟨_, exec_netTx htxlen⟩
  | netRxpop => exact exec_netRxpop_next s
  | sndStart => exact exec_sndStart_next s
  | sndStep => exact exec_sndStep_next fun hact => hroom (State.sessionActive_iff.mpr (.inl hact))
  | rcvStart => exact exec_rcvStart_next s
  | rcvStep => exact exec_rcvStep_next fun hact => hroom (State.sessionActive_iff.mpr (.inr hact))

theorem State.Legal.room (hs : s.Legal) : s.sessionActive = true → s.frameTooBig = false := by
  obtain ⟨-, -, -, -, ⟨-, hroom, -⟩, -⟩ := hs
  exact hroom

theorem State.Legal.exec_next (hs : s.Legal) (i : Instr) : ∃ t, exec i s = .next t := by
  obtain ⟨-, -, ⟨-, hplen, htxlen, -⟩, -⟩ := id hs
  exact exec_next_of_fits hplen htxlen hs.room i

end Completion

/-! ## AUTO -/

section Auto
variable {s t : State}

/-- AUTO where the sender's session is active: `SND.STEP`, its completion discarded (R186). -/
theorem autoStep_sender (hauto : s.cfg.auto = true) (hact : s.snd.act = true) (h : exec .sndStep s = .next t) :
    autoStep s = .next { t with port := s.port } := by
  have hstep : execSndStep s = .next t := h
  simp only [autoStep, hauto, hact, Bool.and_self, if_true, hstep, discardCompletion]

/-- AUTO where the receiver's session is active and a datagram waits: `RCV.STEP`, its completion discarded (R186). -/
theorem autoStep_receiver (hauto : s.cfg.auto = true) (hsnd : s.snd.act = false) (hact : s.rcv.act = true)
    (hq : s.rxq ≠ []) (h : exec .rcvStep s = .next t) : autoStep s = .next { t with port := s.port } := by
  have hstep : execRcvStep s = .next t := h
  have hwaits : 0 < s.rxq.length := List.length_pos_iff.mpr hq
  simp [autoStep, hauto, hsnd, hact, hwaits, hstep, discardCompletion]

/-- AUTO elsewhere (assumption 10). -/
theorem autoStep_disabled (h : s.cfg.auto = false ∨ s.snd.act = false ∧ (s.rcv.act = false ∨ s.rxq = [])) :
    autoStep s = .next s := by
  rcases h with hauto | ⟨hsnd, hrcv | hq⟩
  · simp [autoStep, hauto]
  · simp [autoStep, hsnd, hrcv]
  · simp [autoStep, hsnd, hq]

/-- Settles O10. -/
theorem autoStepsTheActiveSession : Obligations.AutoStepsTheActiveSession := by
  intro s t rest hsched
  rw [step_of_sched hsched]
  exact ⟨autoStep_sender (s := { s with sched := rest }), autoStep_receiver (s := { s with sched := rest }),
    autoStep_disabled (s := { s with sched := rest })⟩

/-- Of STATUS and the error registers the receiver iteration writes R_OVF only (43_receiver_arq.md R158). -/
theorem rcvIter_stat (d : Datagram) (s : State) :
    (rcvIter d s).1.stat = { s.stat with rOvf := (rcvIter d s).1.stat.rOvf } := by
  rcases rcvIter_cases d s with h | ⟨u, rfl, h | h | ⟨p, -, -, h⟩ | h⟩ <;> rw [h]
  case inr.inr.inr.inl => rfl

/-- AUTO's step completes in a legal state and raises no fault (60_exceptions.md R185). -/
theorem State.Legal.autoStep_next (hs : s.Legal) :
    ∃ t, autoStep s = .next t ∧ t.stat = { s.stat with rOvf := t.stat.rOvf } ∧ t.port = s.port := by
  by_cases hoff : s.cfg.auto = false ∨ s.snd.act = false ∧ (s.rcv.act = false ∨ s.rxq = [])
  · exact ⟨s, autoStep_disabled hoff, rfl, rfl⟩
  · simp only [not_or, not_and, Bool.not_eq_false] at hoff
    obtain ⟨hauto, hrcv⟩ := hoff
    cases hsnd : s.snd.act with
    | true =>
      obtain ⟨rxc, h⟩ := exec_sndStep_completes hsnd (hs.room (State.sessionActive_iff.mpr (.inl hsnd)))
      refine ⟨_, autoStep_sender hauto hsnd h, ?_, rfl⟩
      simp [State.sndDone, State.done]
    | false =>
      obtain ⟨hact, hne⟩ := hrcv hsnd
      obtain ⟨d, q, hq⟩ := List.exists_cons_of_ne_nil hne
      have h := exec_rcvStep_completes hact (hs.room (State.sessionActive_iff.mpr (.inr hact))) hq
      refine ⟨_, autoStep_receiver hauto hsnd hact hne h, ?_, rfl⟩
      simpa [State.rcvDone, State.done] using rcvIter_stat d { s with rxq := q }

/-- Settles O11: of STATUS and the error registers AUTO's step writes R_OVF at most. -/
theorem autoNeverFaults : Obligations.AutoNeverFaults := by
  intro s rest hsched hs
  obtain ⟨t, h, hstat, hport⟩ := State.Legal.autoStep_next (s := { s with sched := rest }) hs
  exact ⟨t, (step_of_sched hsched).trans h, by rw [hstat], by rw [hstat], by rw [hstat], hport⟩

end Auto

/-! ## Legal states never stop -/

section NeverStops
variable {s : State}

theorem State.Legal.hostOp_next (hs : s.Legal) (cmd : Word) (wdata : Dword) : ∃ t, hostOp cmd wdata s = .next t := by
  cases hdecode : decode cmd with
  | instr i =>
    rw [hostOp_of_decode hdecode]
    exact State.Legal.exec_next (s := { s with port := { s.port with wdata := wdata } }) hs i
  | reject r => exact ⟨_, hostOp_of_reject hdecode⟩

/-- Settles O56: each agent's step completes in a legal state; the HOST's store has its address in range. -/
theorem legalStatesNeverStop : Obligations.LegalStatesNeverStop := by
  intro s hs hstore
  cases hsched : s.sched with
  | nil => exact ⟨s, by simp only [step, hsched]⟩
  | cons e rest =>
    have hlegal : State.Legal { s with sched := rest } := hs
    rw [step_of_sched hsched]
    cases e with
    | host cmd wdata => exact hlegal.hostOp_next cmd wdata
    | tick | netIn | hwReset => exact ⟨_, rfl⟩
    | auto =>
      obtain ⟨t, h, -⟩ := hlegal.autoStep_next
      exact ⟨t, h⟩
    | hostStore a b =>
      have hput := (State.hostStore_ok (s := { s with sched := rest }) (b := b)).mpr ⟨hstore a b rest hsched, rfl⟩
      exact ⟨_, by rw [runEvent, hput, withMem_ok]⟩

end NeverStops

end Sys2Proof.Machine
